-- ==== Sys2Proof/Word.lean ====
section
/-! DEFINITION. The byte, the one word width of this hardware (R10, R47): every quantity that crosses
the wire or stands in a buffer is one byte, and no value is signed. -/

namespace Sys2Proof

/-- A byte, an integer 0 to 255 (R10). -/
abbrev Byte := BitVec 8

end Sys2Proof
end

