-- ==== Sys2Proof/Machine/Codec.lean ====
section
/-! DEFINITION. The Frame Codec as pure functions over byte strings: the checksums (R73, R74), the frame
layouts (R71, R77, R79), and `ENCODE`, `ISACK`, `STRIP`, `WELLFORMED` without their refusals. -/

namespace Sys2Proof.Machine

/-- `sum(s)`, the plain sum of the bytes, not reduced (R11). -/
def sumBytes : List Byte → Nat
  | [] => 0
  | b :: bs => b.toNat + sumBytes bs

/-- `sum8(s)` (R11). -/
def sum8 (bs : List Byte) : Nat := sumBytes bs % 256

/-- `neg8(x) = (256 - (x mod 256)) mod 256` (R11); the byte keeps the low eight bits. -/
def neg8 (x : Nat) : Byte := BitVec.ofNat 8 (256 - x % 256)

/-- `s[a .. b)`, empty when `a >= b` (R10). -/
def slice (bs : List Byte) (a b : Nat) : List Byte := (bs.drop a).take (b - a)

/-- `s[i]` for an index below the length (R10). -/
def byteAt (bs : List Byte) (i : Nat) : Byte := bs.getD i 0x00#8

/-- `HDR_LEN` (R8). -/
def hdrLen : Nat := 6

/-- `TRL_LEN` (R8). -/
def trlLen : Nat := 2

/-- `OVERHEAD` (R8). -/
def overhead : Nat := hdrLen + trlLen

/-- `ACK_LEN` (R8). -/
def ackLen : Nat := 6

/-- `DIR_H2D` (R8). -/
def dirH2D : Byte := 0xD4#8

/-- `ACK_CONST`, a literal and no instance of the general layout (R77, R78). -/
def ackConst : List Byte := [0x00#8, 0x00#8, 0xFF#8, 0x00#8, 0xFF#8, 0x00#8]

/-- `PAYLOAD = [code] ++ params` (R82). -/
def payloadOf (code : Byte) (params : List Byte) : List Byte := code :: params

/-- `LEN`, one for DIR plus the payload length, as its byte (R72). -/
def lenByte (payload : List Byte) : Byte := BitVec.ofNat 8 (payload.length + 1)

/-- `LCS` (R73). -/
def lcsByte (payload : List Byte) : Byte := neg8 (payload.length + 1)

/-- `DCS`, over DIR and the payload (R74). -/
def dcsByte (payload : List Byte) : Byte := neg8 (dirH2D.toNat + sumBytes payload)

/-- The command frame `ENCODE` builds (R71, R101). The bound `CommandTooLong` is `encodeChecked`'s. -/
def encodeFrame (code : Byte) (params : List Byte) : List Byte :=
  let payload := payloadOf code params
  [0x00#8, 0x00#8, 0xFF#8, lenByte payload, lcsByte payload, dirH2D] ++ payload
    ++ [dcsByte payload, 0x00#8]

/-- `ISACK` (R104): six bytes, each that of `ACK_CONST`; any other length is no acknowledgment. -/
def isAckFrame (bs : List Byte) : Bool := decide (bs = ackConst)

/-- `STRIP` (R106): positional, none for fewer than eight bytes. -/
def stripFrame (bs : List Byte) : Option (List Byte) :=
  if bs.length < overhead then none else some (slice bs hdrLen (bs.length - trlLen))

/-- The Frame as a data value (R16): `{ length, payload[length - 1] }`. -/
structure FrameValue where
  length : Nat
  payload : List Byte
  deriving DecidableEq, Repr

/-- The Frame value of a stripped response or of a command's payload (R107). -/
def frameValue (payload : List Byte) : FrameValue where
  length := 1 + payload.length
  payload := payload

/-- `WELLFORMED(bs, dir)` (R112). -/
def frameWellFormed (bs : List Byte) (dir : Byte) : Bool :=
  decide (8 ≤ bs.length) && decide (bs.length ≤ 262)
    && decide (byteAt bs 0 = 0x00#8) && decide (byteAt bs 1 = 0x00#8) && decide (byteAt bs 2 = 0xFF#8)
    && decide ((byteAt bs 3).toNat = bs.length - 7)
    && decide (((byteAt bs 3).toNat + (byteAt bs 4).toNat) % 256 = 0)
    && decide (byteAt bs 5 = dir)
    && decide (sum8 (slice bs 5 (bs.length - 1)) = 0)
    && decide (byteAt bs (bs.length - 1) = 0x00#8)

end Sys2Proof.Machine
end

