-- ==== Sys2Proof/Config.lean ====
section
/-! DEFINITION. What an instance of the block fixes (R8, R9, R57) and the free values the spec leaves
unspecified. Both parameters are data that `State` carries, so that a claim about every state is a
claim about every instance. -/

namespace Sys2Proof

/-- The model arguments of the spec: `BUF_CAP` (R8, decision D28) and `TRANSPORT_MAY_TIME_OUT`
(R57, decision D27). The block has no other option, mode bit or configuration register (R9). -/
structure Config where
  /-- `BUF_CAP`, the bytes of the packet buffer `BUF`; legal range 9 to 262. -/
  bufCap : Nat
  /-- `TRANSPORT_MAY_TIME_OUT`: whether the transport's blocking read can give up. -/
  transportMayTimeOut : Bool
  deriving DecidableEq, Repr

/-- The reference system: 64 bytes of buffer (R8), and a transport that may time out, which the spec
calls the safe default (decision D27). -/
def Config.reference : Config where
  bufCap := 64
  transportMayTimeOut := true

/-- The legal range of `BUF_CAP` (R8, decision D28). -/
abbrev Config.Legal (c : Config) : Prop := 9 ≤ c.bufCap ∧ c.bufCap ≤ 262

/-- The byte `ACKBUF[i]` that the `n`-th `RESET` leaves: the spec calls it unspecified (R37), so nothing
constrains it. Log entry 6. -/
opaque Config.unspecifiedAckByte : Nat → Nat → Byte

end Sys2Proof
end

