-- ==== Sys2Proof/Syntax.lean ====
section
/-! DEFINITION. The instruction set in the sense of R3 and R89: one constructor of `Instr` per row of
spec/opcode_table.json, the lines a program is made of, and the reasons a line is no instruction. -/

namespace Sys2Proof

/-- Who presents a request at the host command port. The block assumes exactly one caller (R163); the
second one exists so that the refusal `SecondCaller` of R157 can be said. -/
inductive Caller where
  | first
  | second
  deriving DecidableEq, Repr

/-- The instructions: three wire frame kinds, the codec operations, the exchange, the reset event, and
the five named commands, which are exchanges whose payload begins with a listed code (R87, R89). -/
inductive Instr where
  /-- `CMD_FRAME` (R71): the command frame of `code` and `params` crosses the wire, host to device. -/
  | cmdFrame (code : Byte) (params : List Byte)
  /-- `ACK_FRAME` (R77): the six-byte acknowledgment crosses the wire, device to host. -/
  | ackFrame
  /-- `RSP_FRAME` (R79): six header bytes, a payload and two trailer bytes cross the wire, device to
  host. No byte of them is tested. -/
  | rspFrame (header payload trailer : List Byte)
  /-- `ENCODE(code, params)` (R101). -/
  | encode (code : Byte) (params : List Byte)
  /-- `ISACK(bs)` (R104). -/
  | isAck (bs : List Byte)
  /-- `STRIP(bs)` (R106). -/
  | strip (bs : List Byte)
  /-- `WELLFORMED(bs, dir)` (R112). -/
  | wellFormed (bs : List Byte) (dir : Byte)
  /-- `EXECUTE(code, params, L)` (R121), begun by the event ACCEPT at the host command port (R31). -/
  | execute (caller : Caller) (code : Byte) (params : List Byte) (explen : Nat)
  /-- `RESET` (R175), the event of the reset port (R35). -/
  | reset
  /-- An exchange whose command is the firmware-version query (R87). -/
  | firmwareVersionQuery (caller : Caller) (params : List Byte) (explen : Nat)
  /-- An exchange whose command is the security-module configuration (R87). -/
  | securityModuleConfiguration (caller : Caller) (params : List Byte) (explen : Nat)
  /-- An exchange whose command is the RF retry configuration (R87). -/
  | rfRetryConfiguration (caller : Caller) (params : List Byte) (explen : Nat)
  /-- An exchange whose command is the passive-target listing (R87). -/
  | passiveTargetListing (caller : Caller) (params : List Byte) (explen : Nat)
  /-- An exchange whose command is the data exchange (R87). -/
  | dataExchange (caller : Caller) (params : List Byte) (explen : Nat)
  deriving DecidableEq, Repr

/-- One line of a program (R88): which port or function it stands at, and the bytes it carries there.
The block has no command word (R36, R89), so a line says its port by its constructor; only the bytes
of a wire line and of a payload are encodings of the spec. Log entry 1. -/
inductive Line where
  /-- Bytes on the wire, host to device. -/
  | txWire (bytes : List Byte)
  /-- Bytes on the wire, device to host. -/
  | rxWire (bytes : List Byte)
  /-- `ENCODE` called with the payload `code :: params`. -/
  | encodeCall (payload : List Byte)
  /-- `ISACK` called. -/
  | isAckCall (bytes : List Byte)
  /-- `STRIP` called. -/
  | stripCall (bytes : List Byte)
  /-- `WELLFORMED` asked. -/
  | wellFormedCall (bytes : List Byte) (dir : Byte)
  /-- A request at the host command port: the payload `code :: params` and `cmd_explen` (R31). -/
  | command (caller : Caller) (payload : List Byte) (explen : Nat)
  /-- The same request, its command named by the payload's first byte (R87). -/
  | namedCommand (caller : Caller) (payload : List Byte) (explen : Nat)
  /-- The reset port (R35). -/
  | resetPort
  deriving DecidableEq, Repr

/-- Why a line is no instruction. The first is no command at all (R82: a command has its code byte); the
next seven name the part of R71's layout, or of the row's `match_mask_span`, that host-to-device bytes
break (R86: the block cannot produce them); the last is device-to-host bytes of no frame kind. -/
inductive DecodeError where
  | noCodeByte
  | frameTooShort
  | notStartSequence
  | wrongDirection
  | notPostamble
  | lengthMismatch
  | lengthChecksum
  | dataChecksum
  | noDeviceFrame
  deriving DecidableEq, Repr

end Sys2Proof
end

