-- ==== Sys2Proof/Machine/State.lean ====
section
/-! DEFINITION. The machine's state: the eight registers of R20, the transport's two streams (R51, R52),
the agents outside the block as far as a deterministic step must know them, and the state at reset. -/

namespace Sys2Proof.Machine

/-- `PHASE` (R24): what plays the part of a program counter, with `IDX`. -/
inductive Phase where
  | idle
  | send
  | waitAck
  | readRsp
  deriving DecidableEq, Repr

/-- The values of `RESULT` (R28). The reserved codes 5 to 7 are no value of this type. -/
inductive ExchangeResult where
  | none
  | ok
  | ackTimeout
  | ackMismatch
  | rspTimeout
  deriving DecidableEq, Repr

/-- `BUF`'s storage (R12, R45): address and byte, addresses strictly rising. An unlisted address has no
value (R37). -/
abbrev Memory := List Host.Cell

/-- The values of the host result port (R32), and `cmd_ready` of the command port (R31). -/
inductive PortSelect where
  | busy
  | cmdReady
  | result
  | rspLen
  | rspRaw
  | rspPayload
  | ackRaw
  | ackByte (i : Fin 6)
  deriving DecidableEq, Repr

/-- What an operation or a read of the result port hands back to its caller. -/
inductive Answer where
  | nothing
  | bit (b : Bool)
  | number (n : Nat)
  | byte (b : Byte)
  | bytes (bs : List Byte)
  | outcome (r : ExchangeResult)
  deriving DecidableEq, Repr

/-- Who moves next: the events of R64, one agent at a time (R59). -/
inductive Move where
  /-- The host puts its next program line forward. -/
  | host
  /-- The block takes its own next event, if it has one (R64). -/
  | block
  /-- The device's byte enters the receive queue: `DevPush` (R55). -/
  | devPush (b : Byte)
  /-- The transport's blocking read gives up: `RxTimeout` (R57). -/
  | rxTimeout
  /-- The transport becomes ready, or stops being ready, to take a byte (R53, R185). -/
  | txReady (ready : Bool)
  /-- The host reads the result port (R32, R142). -/
  | read (p : PortSelect)
  /-- The host's use of the result is over (R183). -/
  | release
  /-- The reset port is pulsed: `RESET`, enabled at every moment (R35, R175). -/
  | reset
  deriving DecidableEq, Repr

/-- The machine's state. -/
structure State where
  /-- The instance's parameters (R8, R57); no event changes them. -/
  cfg : Config
  /-- S0 `BUF`, the packet buffer (R21). -/
  buf : Memory
  /-- S1 `ACKBUF` (R22). -/
  ackBuf : Vector Byte 6
  /-- S2 `FLEN` (R23). -/
  flen : Nat
  /-- S3 `PHASE` (R24). -/
  phase : Phase
  /-- S4 `IDX` (R25). -/
  idx : Nat
  /-- S5 `EXP` (R26). -/
  exp : Nat
  /-- S6 `RSP_LEN` (R27). -/
  rspLen : Nat
  /-- S7 `RESULT` (R28). -/
  result : ExchangeResult
  /-- `RXQ`, the transport's received unread bytes, oldest first (R52). -/
  rxq : List Byte
  /-- `TXLOG`, every byte handed to the transport, oldest first (R51). -/
  txlog : List Byte
  /-- Whether the transport takes a byte (`tx_ready`, R33, R53). -/
  txReady : Bool
  /-- The host's program lines still to come, the next one first (R88, R141). -/
  program : List Line
  /-- The moves still to come, the next one first; when it is empty, `nextMove` says who moves. -/
  schedule : List Move
  /-- The caller whose exchange, or whose use of the result, is in progress (R183). -/
  owner : Option Caller
  /-- The model's own: what the caller was last handed. -/
  answer : Answer
  /-- The model's own: which bytes of `ACKBUF` an acknowledgment-byte step has written since reset,
  which R37 makes readable. -/
  ackWritten : Vector Bool 6
  /-- The model's own: the count of resets, which the free values of R37 are applied to. -/
  freeCount : Nat
  deriving DecidableEq, Repr

/-- Why the machine stops with a fault. The spec's machine has none of these: each guards an access that
no run from reset makes, and all are safe (a claim may become unprovable, none becomes false). -/
inductive Fault where
  /-- An access to `BUF` at or above `BUF_CAP`, which R12 says does not exist. Raised by the send step,
  the response-byte step and reads of `rsp_raw`. Safe. -/
  | bufOutOfRange (addr : Nat)
  /-- A read of a byte of `BUF` that nothing has written since reset, which has no value (R37). Raised by
  the send step and reads of `rsp_raw`. Safe. -/
  | bufNoValue (addr : Nat)
  /-- An access to `ACKBUF` at index 6 or above. Raised by the acknowledgment-byte step. Safe. -/
  | ackOutOfRange (index : Nat)
  deriving DecidableEq, Repr

/-- Why a request is refused: the spec gives it no next state (R156). All of R157's refusals, each safe:
the model declines to say what a device would do. -/
inductive Refusal where
  /-- An instruction that has no meaning yet. Raised by `exec`'s arm alone. Safe. -/
  | notModelled (mnemonic : String)
  /-- `CommandTooLong` (R157): the frame would not fit `BUF`. Raised at acceptance and by `ENCODE`.
  Safe. -/
  | commandTooLong
  /-- `ResponseTooLong` (R157): the response would not fit `BUF`. Raised at acceptance. Safe. -/
  | responseTooLong
  /-- `ResponseTooShort` (R157): fewer than eight bytes to strip. Raised by `STRIP` and by a read of
  `rsp_payload`. Safe. -/
  | responseTooShort
  /-- `SecondCaller` (R157, R183). Raised at acceptance. Safe. -/
  | secondCaller
  /-- `ReadBeforeWrite` (R157, R37): the byte of `ack_raw` has no value. Raised by a read of `ack_raw`.
  Safe. -/
  | readBeforeWrite (index : Nat)
  /-- The program line is no instruction. Raised by the step's decoding. Safe. -/
  | undecodable (reason : DecodeError)
  deriving DecidableEq, Repr

/-- What one step answers. -/
abbrev Result := Host.Outcome State Fault Refusal

/-- The machine right after reset (R37), with an idle environment: nothing received, nothing sent, no
program. `BUF` lists nothing, so no byte of it has a value; `ACKBUF` holds zeros that no read can reach
(log entry 5). -/
def State.reset : State where
  cfg := Config.reference
  buf := []
  ackBuf := Vector.replicate 6 0x00#8
  flen := 0
  phase := .idle
  idx := 0
  exp := 0
  rspLen := 0
  result := .none
  rxq := []
  txlog := []
  txReady := true
  program := []
  schedule := []
  owner := Option.none
  answer := .nothing
  ackWritten := Vector.replicate 6 false
  freeCount := 0

end Sys2Proof.Machine
end

