-- ==== Sys2Proof/Machine/Flags.lean ====
section
/-! DEFINITION. The one status flag register `RESULT` (R28) and the signals derived from `PHASE`. No other
flag exists and no operation writes a flag as a side effect (R28). -/

namespace Sys2Proof.Machine

/-- The three-bit code of a `RESULT` value (R28, decision D10). -/
def resultCode : ExchangeResult → BitVec 3
  | .none => 0
  | .ok => 1
  | .ackTimeout => 2
  | .ackMismatch => 3
  | .rspTimeout => 4

/-- `busy` (R29). -/
def busy (s : State) : Bool := decide (s.phase ≠ .idle)

/-- `cmd_ready` (R31). -/
def cmdReady (s : State) : Bool := !busy s

/-- The failures among the outcomes (R150). -/
def isFailure : ExchangeResult → Bool
  | .none => false
  | .ok => false
  | .ackTimeout => true
  | .ackMismatch => true
  | .rspTimeout => true

end Sys2Proof.Machine
end

