-- ==== Sys2Proof/Machine/Operands.lean ====
section
/-! DEFINITION. The operand bounds of the host command port (R31, R82, R83) and the codec functions with
the refusals those bounds give (R101, R106, R157). -/

namespace Sys2Proof.Machine

/-- `PARAM_MAX = BUF_CAP - 9` (R8). -/
def paramMax (c : Config) : Nat := c.bufCap - 9

/-- `PAYLOAD_MAX = BUF_CAP - 8` (R8). -/
def payloadMax (c : Config) : Nat := c.bufCap - 8

/-- `RSP_MAX = BUF_CAP` (R8). -/
def rspMax (c : Config) : Nat := c.bufCap

/-- The command's frame fits the buffer: `9 + p <= BUF_CAP` (R82), which is `p <= PARAM_MAX` for every
legal `BUF_CAP`. -/
def commandFits (c : Config) (params : List Byte) : Bool := decide (9 + params.length ≤ c.bufCap)

/-- `L <= RSP_MAX` (R83). -/
def responseFits (c : Config) (explen : Nat) : Bool := decide (explen ≤ rspMax c)

/-- `ENCODE` with its refusal (R101). -/
def encodeChecked (c : Config) (code : Byte) (params : List Byte) : Except Refusal (List Byte) :=
  if commandFits c params then .ok (encodeFrame code params) else .error .commandTooLong

/-- `STRIP` with its refusal (R106). -/
def stripChecked (bs : List Byte) : Except Refusal (List Byte) :=
  match stripFrame bs with
  | some payload => .ok payload
  | none => .error .responseTooShort

/-- A caller other than `caller` has an exchange, or its use of the result, in progress (R157, R183). -/
def heldByOther (s : State) (caller : Caller) : Bool :=
  match s.owner with
  | none => false
  | some h => decide (h ≠ caller)

end Sys2Proof.Machine
end

