-- ==== Sys2Proof/Machine/Ops.lean ====
section
/-! DEFINITION. The named operations over the registers, the buffer and the streams (R12, R13), and the
block's events (R122 to R134). Ending an exchange, in success or failure, is the one shared operation
`complete`; the block has no other exception and no return from one (R160, R161). -/

namespace Sys2Proof.Machine

/-! ### `BUF`'s storage -/

/-- The byte at an address; none where nothing is listed. -/
def memLookup : Memory → Nat → Option Byte
  | [], _ => none
  | (k, v) :: rest, a => if k = a then some v else memLookup rest a

/-- Store one byte, keeping the addresses strictly rising. -/
def memInsert : Memory → Nat → Byte → Memory
  | [], a, b => [(a, b)]
  | (k, v) :: rest, a, b =>
    if a < k then (a, b) :: (k, v) :: rest
    else if a = k then (a, b) :: rest
    else (k, v) :: memInsert rest a b

/-- `MemWrite(addr, n, v)` (R12). -/
def memWrite : Memory → Nat → List Byte → Memory
  | m, _, [] => m
  | m, a, b :: bs => memWrite (memInsert m a b) (a + 1) bs

/-- `MemRead(addr, n)` (R12); none when a byte of it has no value. -/
def memRead : Memory → Nat → Nat → Option (List Byte)
  | _, _, 0 => some []
  | m, a, n + 1 =>
    match memLookup m a with
    | none => none
    | some b => (memRead m (a + 1) n).map (b :: ·)

/-- The canonical form: addresses strictly rising. No entry can equal what an unlisted address reads as,
since that is no value. -/
def Memory.wf : Memory → Bool
  | [] => true
  | [_] => true
  | (a, _) :: (b, v) :: rest => decide (a < b) && Memory.wf ((b, v) :: rest)

/-! ### Register and stream primitives -/

/-- The program line at the front is done. -/
def retire (s : State) : State := { s with program := s.program.tail }

/-- The move at the front of the schedule is taken. -/
def dropMove (s : State) : State := { s with schedule := s.schedule.tail }

/-- Hand a value to the caller. -/
def give (a : Answer) (s : State) : State := { s with answer := a }

/-- `TxByte(b)` (R51). -/
def txByte (b : Byte) (s : State) : State := { s with txlog := s.txlog ++ [b] }

/-- `DevPush` of each byte in order (R55). -/
def rxPush (bs : List Byte) (s : State) : State := { s with rxq := s.rxq ++ bs }

/-- The queue after `RxPop()` (R54). -/
def rxPop (s : State) : State := { s with rxq := s.rxq.tail }

/-- `RxFlush()` (R56). -/
def rxFlush (s : State) : State := { s with rxq := [] }

/-- The transport's readiness to take a byte (R53). -/
def setTxReady (ready : Bool) (s : State) : State := { s with txReady := ready }

/-- `MemWrite` into `BUF` (R12). -/
def storeBuf (a : Nat) (bs : List Byte) (s : State) : State := { s with buf := memWrite s.buf a bs }

/-- `ACKBUF[i] <- b`; the byte has a value from now on (R22, R37). -/
def storeAck (i : Nat) (b : Byte) (s : State) : State :=
  { s with ackBuf := s.ackBuf.setIfInBounds i b, ackWritten := s.ackWritten.setIfInBounds i true }

/-- `RSP_LEN <- n` (R27). -/
def setRspLen (n : Nat) (s : State) : State := { s with rspLen := n }

/-- `IDX <- IDX + 1` (R25). -/
def nextIdx (s : State) : State := { s with idx := s.idx + 1 }

/-- `PHASE <- p ; IDX <- 0` (R25). -/
def enterPhase (p : Phase) (s : State) : State := { s with phase := p, idx := 0 }

/-- `complete(r)` and `raise r`: the end of an exchange, in one event with the step that caused it
(R134). -/
def complete (r : ExchangeResult) (s : State) : State :=
  { s with result := r, phase := .idle, idx := 0 }

/-- The registers that ACCEPT latches from the request, and those it clears (R122); the caller now holds
the block (R183). -/
def latchRequest (caller : Caller) (frameLen explen : Nat) (s : State) : State :=
  { s with flen := frameLen, exp := explen, rspLen := 0, result := .none, owner := some caller }

/-- The host's use of the result ends; an exchange in progress keeps its caller (R183). -/
def releaseResult (s : State) : State := if s.phase = .idle then { s with owner := none } else s

/-- `RESET` (R37, R175): every register of the block at its reset value, `BUF` and `ACKBUF` unspecified
(no value, and free values that no read can reach). The transport and the host's program are not
touched; nobody holds a result any more. -/
def resetBlock (s : State) : State :=
  { s with
    buf := []
    ackBuf := Vector.ofFn fun i => Config.unspecifiedAckByte s.freeCount i.val
    flen := 0
    phase := .idle
    idx := 0
    exp := 0
    rspLen := 0
    result := .none
    owner := none
    ackWritten := Vector.replicate 6 false
    freeCount := s.freeCount + 1 }

/-! ### Reads of `BUF` with their faults -/

/-- `BUF[a]`. -/
def bufByte (s : State) (a : Nat) : Except Fault Byte :=
  if s.cfg.bufCap ≤ a then .error (.bufOutOfRange a)
  else
    match memLookup s.buf a with
    | none => .error (.bufNoValue a)
    | some b => .ok b

/-- `BUF[a .. a+n)`, byte by byte. -/
def bufBytes (s : State) : Nat → Nat → Except Fault (List Byte)
  | _, 0 => .ok []
  | a, n + 1 =>
    match bufByte s a with
    | .error f => .error f
    | .ok b =>
      match bufBytes s (a + 1) n with
      | .error f => .error f
      | .ok bs => .ok (b :: bs)

/-! ### The events of an exchange -/

/-- ACCEPT (R122), for a request within the contract: the frame is encoded into `BUF`, the operands are
latched, stale input is discarded, and sending begins, in one event. -/
def accept (caller : Caller) (code : Byte) (params : List Byte) (explen : Nat) (s : State) : State :=
  let frame := encodeFrame code params
  enterPhase .send (rxFlush (latchRequest caller frame.length explen (storeBuf 0 frame s)))

/-- A request at the host command port (R31, R121): refused outside the contract (R157), waiting with
nothing latched while the caller's own exchange is in progress, accepted otherwise. Refusals are decided
before anything is flushed or sent, `CommandTooLong` before `ResponseTooLong` (R159). -/
def requestExchange (caller : Caller) (code : Byte) (params : List Byte) (explen : Nat) (s : State) :
    Result :=
  if heldByOther s caller then .refused .secondCaller
  else if busy s then .next s
  else if !commandFits s.cfg params then .refused .commandTooLong
  else if !responseFits s.cfg explen then .refused .responseTooLong
  else .next (retire (accept caller code params explen s))

/-- SEND step (R123). -/
def sendStep (s : State) : Result :=
  match bufByte s s.idx with
  | .error f => .fault f
  | .ok b =>
    if s.idx + 1 < s.flen then .next (nextIdx (txByte b s))
    else .next (enterPhase .waitAck (txByte b s))

/-- `n` SEND steps, one after the other. -/
def sendSteps : Nat → State → Result
  | 0, s => .next s
  | n + 1, s =>
    match sendStep s with
    | .next t => sendSteps n t
    | .fault f => .fault f
    | .refused r => .refused r

/-- ACK_VERDICT (R126), with `L = 0` completing at once (R131). -/
def ackVerdict (s : State) : State :=
  if !isAckFrame s.ackBuf.toList then complete .ackMismatch s
  else if s.exp = 0 then complete .ok s
  else enterPhase .readRsp s

/-- Acknowledgment-byte step (R125), for the byte `b` at the head of the queue; the sixth byte is judged
in the same event. -/
def ackByteStep (b : Byte) (s : State) : Result :=
  if 6 ≤ s.idx then .fault (.ackOutOfRange s.idx)
  else
    let t := storeAck s.idx b (rxPop s)
    if s.idx + 1 < 6 then .next (nextIdx t) else .next (ackVerdict t)

/-- Response-byte step (R128, R129), for the byte `b` at the head of the queue: stored as received. -/
def rspByteStep (b : Byte) (s : State) : Result :=
  if s.cfg.bufCap ≤ s.idx then .fault (.bufOutOfRange s.idx)
  else
    let t := setRspLen (s.idx + 1) (storeBuf s.idx [b] (rxPop s))
    if s.idx + 1 < s.exp then .next (nextIdx t) else .next (complete .ok t)

/-- The block has an own event to take (R64). -/
def blockReady (s : State) : Bool :=
  match s.phase with
  | .idle => false
  | .send => s.txReady
  | .waitAck => !s.rxq.isEmpty
  | .readRsp => !s.rxq.isEmpty

/-- The block's own next event, which is unique (R64); where it has none it waits and nothing changes
(R54, R185). -/
def blockStep (s : State) : Result :=
  match s.phase with
  | .idle => .next s
  | .send => if s.txReady then sendStep s else .next s
  | .waitAck =>
    match s.rxq with
    | [] => .next s
    | b :: _ => ackByteStep b s
  | .readRsp =>
    match s.rxq with
    | [] => .next s
    | b :: _ => rspByteStep b s

/-- `RxTimeout` (R57): where the transport may time out, while the block waits and nothing has arrived, it
ends the exchange (R127, R130); at any other moment it has no effect and is not remembered (R158). -/
def rxTimeout (s : State) : State :=
  if s.cfg.transportMayTimeOut && s.rxq.isEmpty then
    match s.phase with
    | .idle => s
    | .send => s
    | .waitAck => complete .ackTimeout s
    | .readRsp => complete .rspTimeout s
  else s

/-! ### The signals of the transport ports -/

/-- `tx_valid` (R33): the block offers a byte. -/
def txValid (s : State) : Bool := decide (s.phase = .send)

/-- `tx_data` (R33): the byte it offers. -/
def txData (s : State) : Option Byte := memLookup s.buf s.idx

/-- `rx_valid` (R34): the transport holds an unread byte. -/
def rxValid (s : State) : Bool := !s.rxq.isEmpty

/-- `rx_ready` (R34): the block takes bytes. -/
def rxReady (s : State) : Bool := decide (s.phase = .waitAck) || decide (s.phase = .readRsp)

/-- `rx_data` (R34): the oldest unread byte, `RxHead()` of R12. -/
def rxData (s : State) : Option Byte := s.rxq.head?

/-! ### The host result port -/

/-- `rsp_raw = BUF[0 .. RSP_LEN)` (R32). -/
def rspRaw (s : State) : Except Fault (List Byte) := bufBytes s 0 s.rspLen

/-- `ack_raw[i]`, none where no acknowledgment-byte step has written since reset (R32, R37). -/
def ackByte (s : State) (i : Fin 6) : Option Byte :=
  if s.ackWritten[i] then some s.ackBuf[i] else none

/-- The first byte of `ACKBUF` that has no value. -/
def firstUnwrittenAck (s : State) : Option (Fin 6) :=
  [0, 1, 2, 3, 4, 5].find? fun i => (ackByte s i).isNone

/-- A read of the result port (R32, R142): the value is handed to the host, the block is not changed. -/
def readPort (p : PortSelect) (s : State) : Result :=
  match p with
  | .busy => .next (give (.bit (busy s)) s)
  | .cmdReady => .next (give (.bit (cmdReady s)) s)
  | .result => .next (give (.outcome s.result) s)
  | .rspLen => .next (give (.number s.rspLen) s)
  | .rspRaw =>
    match rspRaw s with
    | .error f => .fault f
    | .ok bs => .next (give (.bytes bs) s)
  | .rspPayload =>
    if s.rspLen < overhead then .refused .responseTooShort
    else
      match rspRaw s with
      | .error f => .fault f
      | .ok bs =>
        match stripChecked bs with
        | .error r => .refused r
        | .ok payload => .next (give (.bytes payload) s)
  | .ackRaw =>
    match firstUnwrittenAck s with
    | some i => .refused (.readBeforeWrite i.val)
    | none => .next (give (.bytes s.ackBuf.toList) s)
  | .ackByte i =>
    match ackByte s i with
    | none => .refused (.readBeforeWrite i.val)
    | some b => .next (give (.byte b) s)

end Sys2Proof.Machine
end

