-- ==== Sys2Proof/Machine/CommandExchange.lean ====
section
/-! DEFINITION. The Command Exchange as an instruction (R121), and the exchange as one function (R139). -/

namespace Sys2Proof.Machine

/-- `EXECUTE(code, params, L)` (R121): the event ACCEPT (R122). The events that follow it (R123 to R130)
are the block's own moves. -/
def execExecute (caller : Caller) (code : Byte) (params : List Byte) (explen : Nat) (s : State) :
    Result :=
  requestExchange caller code params explen s

/-- What an exchange leaves behind: the outcome, `rsp_raw`, and `RXQ` if the device sends nothing more. -/
structure ExchangeSummary where
  outcome : ExchangeResult
  rsp : List Byte
  left : List Byte
  deriving DecidableEq, Repr

/-- `EXCHANGE` (R139), from the bytes `d` that the device supplies after the flush, followed by a timeout
if the block waits for more. -/
def exchange (explen : Nat) (d : List Byte) : ExchangeSummary :=
  if d.length < 6 then { outcome := .ackTimeout, rsp := [], left := [] }
  else if slice d 0 6 ≠ ackConst then { outcome := .ackMismatch, rsp := [], left := d.drop 6 }
  else if d.length < 6 + explen then { outcome := .rspTimeout, rsp := d.drop 6, left := [] }
  else { outcome := .ok, rsp := slice d 6 (6 + explen), left := d.drop (6 + explen) }

end Sys2Proof.Machine
end

