-- ==== Sys2Proof/Machine/FrameCodec.lean ====
section
/-! DEFINITION. The Frame Codec operations as instructions (R100): pure functions whose value is handed to
the caller; no register and no stream is touched. -/

namespace Sys2Proof.Machine

/-- `ENCODE(code, params)` (R101). -/
def execEncode (code : Byte) (params : List Byte) (s : State) : Result :=
  match encodeChecked s.cfg code params with
  | .error r => .refused r
  | .ok frame => .next (retire (give (.bytes frame) s))

/-- `ISACK(bs)` (R104). -/
def execIsAck (bs : List Byte) (s : State) : Result :=
  .next (retire (give (.bit (isAckFrame bs)) s))

/-- `STRIP(bs)` (R106). -/
def execStrip (bs : List Byte) (s : State) : Result :=
  match stripChecked bs with
  | .error r => .refused r
  | .ok payload => .next (retire (give (.bytes payload) s))

/-- `WELLFORMED(bs, dir)` (R112). -/
def execWellFormed (bs : List Byte) (dir : Byte) (s : State) : Result :=
  .next (retire (give (.bit (frameWellFormed bs dir)) s))

end Sys2Proof.Machine
end

