-- ==== Sys2Proof/Machine/PayloadCodes.lean ====
section
/-! DEFINITION. The five named commands (R87): exchanges whose payload begins with the code of R87's table.
The code selects no behaviour of the block; each is the exchange of its code byte. -/

namespace Sys2Proof.Machine

/-- The firmware-version query, code `02` (R87). -/
def execFirmwareVersionQuery (caller : Caller) (params : List Byte) (explen : Nat) (s : State) : Result :=
  requestExchange caller 0x02#8 params explen s

/-- The security-module configuration, code `14` (R87). -/
def execSecurityModuleConfiguration (caller : Caller) (params : List Byte) (explen : Nat) (s : State) :
    Result :=
  requestExchange caller 0x14#8 params explen s

/-- The RF retry configuration, code `32` (R87). -/
def execRfRetryConfiguration (caller : Caller) (params : List Byte) (explen : Nat) (s : State) : Result :=
  requestExchange caller 0x32#8 params explen s

/-- The passive-target listing, code `4A` (R87). -/
def execPassiveTargetListing (caller : Caller) (params : List Byte) (explen : Nat) (s : State) : Result :=
  requestExchange caller 0x4A#8 params explen s

/-- The data exchange, code `40` (R87). -/
def execDataExchange (caller : Caller) (params : List Byte) (explen : Nat) (s : State) : Result :=
  requestExchange caller 0x40#8 params explen s

end Sys2Proof.Machine
end

