-- ==== Sys2Proof/Machine/Reset.lean ====
section
/-! DEFINITION. The environment event `RESET` as an instruction (R35, R175). -/

namespace Sys2Proof.Machine

/-- `RESET` (R175), at any moment, in any phase (R176). -/
def execReset (s : State) : Result := .next (retire (resetBlock s))

end Sys2Proof.Machine
end

