-- ==== Sys2Proof/Machine/WireFrames.lean ====
section
/-! DEFINITION. The three wire frame kinds (R70): as an instruction, a frame crosses the wire in its own
direction, by the byte events R123 and R55. Log entry 4. -/

namespace Sys2Proof.Machine

/-- The block is sending the frame of this command and the transport takes bytes (R123). -/
def sendingFrame (code : Byte) (params : List Byte) (s : State) : Bool :=
  decide (s.phase = .send) && s.txReady && decide (s.idx < s.flen)
    && decide (memRead s.buf 0 s.flen = some (encodeFrame code params))

/-- `CMD_FRAME` (R71, R123): what is still to come of the frame crosses the wire, byte by byte, and the
block goes on to `WAIT_ACK`. While the block is not sending this frame nothing can send it (R86, R164):
the line waits. -/
def execCmdFrame (code : Byte) (params : List Byte) (s : State) : Result :=
  if sendingFrame code params s then
    match sendSteps (s.flen - s.idx) s with
    | .next t => .next (retire t)
    | .fault f => .fault f
    | .refused r => .refused r
  else .next s

/-- `ACK_FRAME` (R77): the device's acknowledgment enters the receive queue, byte by byte (R55). -/
def execAckFrame (s : State) : Result := .next (retire (rxPush ackConst s))

/-- `RSP_FRAME` (R79): the device's response enters the receive queue, byte by byte (R55); none of its
bytes is looked at (R80). -/
def execRspFrame (header payload trailer : List Byte) (s : State) : Result :=
  .next (retire (rxPush (header ++ payload ++ trailer) s))

end Sys2Proof.Machine
end

