-- ==== Sys2Proof/Machine/Dispatch.lean ====
section
/-! DEFINITION. The meaning of every instruction: one arm per constructor of `Instr`. -/

namespace Sys2Proof.Machine

def exec (i : Instr) (s : State) : Host.Outcome State Fault Refusal :=
  match i with
  | .cmdFrame code params => Sys2Proof.Machine.execCmdFrame code params s
  | .ackFrame => Sys2Proof.Machine.execAckFrame s
  | .rspFrame header payload trailer => Sys2Proof.Machine.execRspFrame header payload trailer s
  | .encode code params => Sys2Proof.Machine.execEncode code params s
  | .isAck bs => Sys2Proof.Machine.execIsAck bs s
  | .strip bs => Sys2Proof.Machine.execStrip bs s
  | .wellFormed bs dir => Sys2Proof.Machine.execWellFormed bs dir s
  | .execute caller code params explen => Sys2Proof.Machine.execExecute caller code params explen s
  | .reset => Sys2Proof.Machine.execReset s
  | .firmwareVersionQuery caller params explen => Sys2Proof.Machine.execFirmwareVersionQuery caller params explen s
  | .securityModuleConfiguration caller params explen => Sys2Proof.Machine.execSecurityModuleConfiguration caller params explen s
  | .rfRetryConfiguration caller params explen => Sys2Proof.Machine.execRfRetryConfiguration caller params explen s
  | .passiveTargetListing caller params explen => Sys2Proof.Machine.execPassiveTargetListing caller params explen s
  | .dataExchange caller params explen => Sys2Proof.Machine.execDataExchange caller params explen s

end Sys2Proof.Machine
end

