-- ==== Sys2Proof/WellFormed.lean ====
section
/-! DEFINITION. Which instructions have an encoding: what the frame layouts R71 and R79 demand of their
operands. A bound that the block itself checks when it runs (R157) is no part of it. -/

namespace Sys2Proof

/-- The operands fit the instruction's encoding. A command frame's LEN byte is `2 + p`, so `p` is at most
253 (R103); a response frame has a six-byte header and a two-byte trailer (R79). Every other row admits
every operand. -/
def Instr.wf : Instr → Bool
  | .cmdFrame _ params => decide (params.length ≤ 253)
  | .ackFrame => true
  | .rspFrame header _ trailer => decide (header.length = 6) && decide (trailer.length = 2)
  | .encode _ _ => true
  | .isAck _ => true
  | .strip _ => true
  | .wellFormed _ _ => true
  | .execute _ _ _ _ => true
  | .reset => true
  | .firmwareVersionQuery _ _ _ => true
  | .securityModuleConfiguration _ _ _ => true
  | .rfRetryConfiguration _ _ _ => true
  | .passiveTargetListing _ _ _ => true
  | .dataExchange _ _ _ => true

end Sys2Proof
end

