-- ==== Sys2Proof/Decode.lean ====
section
/-! DEFINITION. Decoding a program line, total and rejecting by name, and the encoder back. -/

namespace Sys2Proof

open Sys2Proof.Machine

/-- Host-to-device bytes as a `CMD_FRAME` (R71; the row's `match`, `mask` and `match_mask_span`): each
fixed byte, LEN against the length, both checksum laws. -/
def decodeTxWire (bs : List Byte) : Except DecodeError Instr :=
  if bs.length < 9 then .error .frameTooShort
  else if slice bs 0 3 ≠ [0x00#8, 0x00#8, 0xFF#8] then .error .notStartSequence
  else if byteAt bs 5 ≠ dirH2D then .error .wrongDirection
  else if byteAt bs (bs.length - 1) ≠ 0x00#8 then .error .notPostamble
  else if (byteAt bs 3).toNat ≠ bs.length - 7 then .error .lengthMismatch
  else if ((byteAt bs 3).toNat + (byteAt bs 4).toNat) % 256 ≠ 0 then .error .lengthChecksum
  else if sum8 (slice bs 5 (bs.length - 1)) ≠ 0 then .error .dataChecksum
  else .ok (.cmdFrame (byteAt bs 6) (slice bs 7 (bs.length - 2)))

/-- Device-to-host bytes (R77, R79): the acknowledgment byte for byte, or a response frame by its shape
alone. -/
def decodeRxWire (bs : List Byte) : Except DecodeError Instr :=
  if bs = ackConst then .ok .ackFrame
  else if bs.length < overhead then .error .noDeviceFrame
  else .ok (.rspFrame (slice bs 0 hdrLen) (slice bs hdrLen (bs.length - trlLen))
    (slice bs (bs.length - trlLen) bs.length))

/-- The command a payload's first byte names (R87). The numbers are the spec's table of R87, which marks
them as general knowledge; a code the table does not list is the plain exchange, since every code is
sent (R157). -/
def decodeNamed (caller : Caller) (code : Byte) (params : List Byte) (explen : Nat) : Instr :=
  if code = 0x02#8 then .firmwareVersionQuery caller params explen
  else if code = 0x14#8 then .securityModuleConfiguration caller params explen
  else if code = 0x32#8 then .rfRetryConfiguration caller params explen
  else if code = 0x4A#8 then .passiveTargetListing caller params explen
  else if code = 0x40#8 then .dataExchange caller params explen
  else .execute caller code params explen

/-- The instruction a line stands for. -/
def decode : Line → Except DecodeError Instr
  | .txWire bs => decodeTxWire bs
  | .rxWire bs => decodeRxWire bs
  | .encodeCall [] => .error .noCodeByte
  | .encodeCall (code :: params) => .ok (.encode code params)
  | .isAckCall bs => .ok (.isAck bs)
  | .stripCall bs => .ok (.strip bs)
  | .wellFormedCall bs dir => .ok (.wellFormed bs dir)
  | .command _ [] _ => .error .noCodeByte
  | .command caller (code :: params) explen => .ok (.execute caller code params explen)
  | .namedCommand _ [] _ => .error .noCodeByte
  | .namedCommand caller (code :: params) explen => .ok (decodeNamed caller code params explen)
  | .resetPort => .ok .reset

/-- The line of an instruction, from the same layouts. -/
def encode : Instr → Line
  | .cmdFrame code params => .txWire (encodeFrame code params)
  | .ackFrame => .rxWire ackConst
  | .rspFrame header payload trailer => .rxWire (header ++ payload ++ trailer)
  | .encode code params => .encodeCall (payloadOf code params)
  | .isAck bs => .isAckCall bs
  | .strip bs => .stripCall bs
  | .wellFormed bs dir => .wellFormedCall bs dir
  | .execute caller code params explen => .command caller (payloadOf code params) explen
  | .reset => .resetPort
  | .firmwareVersionQuery caller params explen => .namedCommand caller (payloadOf 0x02#8 params) explen
  | .securityModuleConfiguration caller params explen =>
      .namedCommand caller (payloadOf 0x14#8 params) explen
  | .rfRetryConfiguration caller params explen => .namedCommand caller (payloadOf 0x32#8 params) explen
  | .passiveTargetListing caller params explen => .namedCommand caller (payloadOf 0x4A#8 params) explen
  | .dataExchange caller params explen => .namedCommand caller (payloadOf 0x40#8 params) explen

/-- The `n` bytes of a table word, byte 0 the least significant: the first byte on the wire. -/
def tableBytes : Nat → Nat → List Byte
  | 0, _ => []
  | n + 1, w => BitVec.ofNat 8 w :: tableBytes n (w / 256)

/-- The line that a table word of `nbits` bits is laid out as: one byte is `PAYLOAD[0]` of a named
command of the first caller with no parameter and `L = 0`; more bytes are bytes on the wire, in the
direction that their DIR byte says. Log entry 2. -/
def tableLine (nbits w : Nat) : Line :=
  let bs := tableBytes ((nbits + 7) / 8) w
  if bs.length ≤ 1 then .namedCommand .first bs 0
  else if bs.length ≠ ackLen ∧ byteAt bs 5 = dirH2D then .txWire bs
  else .rxWire bs

/-- The instruction the decoder reads from a table word. -/
def decodeTableWord (nbits w : Nat) : Option Instr := (decode (tableLine nbits w)).toOption

end Sys2Proof
end

