-- ==== Sys2Proof/Machine/Events.lean ====
section
/-! DEFINITION. Which agent moves next (R59, R64), what a move of an agent other than the host's program
does, and how the host's next program line is read. -/

namespace Sys2Proof.Machine

/-- The move that happens next: the schedule's first. Where it names none, the block takes its own event
whenever it has one, as the fairness of R65 asks, and the host goes on with its program otherwise. Log
entry 3. -/
def nextMove (s : State) : Move :=
  match s.schedule with
  | m :: _ => m
  | [] => if blockReady s then .block else .host

/-- A move, from the state in which the schedule has gone on past it. The host's program lines are run
by `step`; here a host with nothing to say leaves everything as it is. -/
def moveEffect (m : Move) (s : State) : Result :=
  match m with
  | .host => .next s
  | .block => blockStep s
  | .devPush b => .next (rxPush [b] s)
  | .rxTimeout => .next (rxTimeout s)
  | .txReady ready => .next (setTxReady ready s)
  | .read p => readPort p s
  | .release => .next (releaseResult s)
  | .reset => .next (resetBlock s)

/-- The instruction of the host's next program line, none where the program is over. -/
def fetch (s : State) : Option (Except DecodeError Instr) := s.program.head?.map decode

/-- The moves of `ms` other than the host's program, one after the other. -/
def runMoves : List Move → State → Result
  | [], s => .next s
  | m :: ms, s =>
    match moveEffect m s with
    | .next t => runMoves ms t
    | .fault f => .fault f
    | .refused r => .refused r

end Sys2Proof.Machine
end

