-- ==== Sys2Proof/Machine/Step.lean ====
section
/-! DEFINITION. One step: the next move of the next agent (R59, R64), and where an instruction is put so
that the very next step runs it. -/

namespace Sys2Proof.Machine

/-- The host's next program line, run; a program that is over leaves everything as it is. -/
def hostStep (s : State) : Host.Outcome State Fault Refusal :=
  match fetch s with
  | none => .next s
  | some (.error e) => .refused (.undecodable e)
  | some (.ok i) => exec i s

/-- One step of the machine. -/
def step (s : State) : Host.Outcome State Fault Refusal :=
  match nextMove s with
  | .host => hostStep (dropMove s)
  | m => moveEffect m (dropMove s)

/-- `s` with the instruction of a table word as the host's next program line and the host's move next, so
that `step` runs exactly it. -/
def State.withFetchWord (s : State) (nbits w : Nat) : State :=
  { s with program := tableLine nbits w :: s.program, schedule := .host :: s.schedule }

end Sys2Proof.Machine
end

