-- ==== Sys2Proof/Safety.lean ====
section
/-! DEFINITION. The terms claims use: the invariant of R38 with what keeps the machine from its faults, the
state ACCEPT leaves, whose request an instruction is, the edges of R135, waits that nothing ends (R185),
and the spec's named premise on the device (R58). -/

namespace Sys2Proof.Machine

/-- The invariant: the nine items of R38, the legal parameters (R8), and what makes every read of `BUF` and
`ACKBUF` that the block or the result port performs a read of a byte that has a value. -/
structure Inv (s : State) : Prop where
  legal : s.cfg.Legal
  canonical : Memory.wf s.buf = true
  inBuffer : ∀ a b, memLookup s.buf a = some b → a < s.cfg.bufCap
  idle : s.phase = .idle → s.idx = 0
  busyRegisters : s.phase ≠ .idle →
    s.result = .none ∧ 9 ≤ s.flen ∧ s.flen ≤ s.cfg.bufCap ∧ s.exp ≤ rspMax s.cfg ∧ s.owner.isSome
  sending : s.phase = .send → s.idx < s.flen ∧ s.rspLen = 0 ∧
    ∃ code params, memRead s.buf 0 s.flen = some (encodeFrame code params)
  waiting : s.phase = .waitAck → s.idx < 6 ∧ s.rspLen = 0 ∧ ∀ i : Fin 6, i.val < s.idx → s.ackWritten[i]
  reading : s.phase = .readRsp →
    1 ≤ s.exp ∧ s.idx < s.exp ∧ s.rspLen = s.idx ∧ s.ackBuf.toList = ackConst
  lengths : s.rspLen ≤ s.exp ∧ s.exp ≤ s.cfg.bufCap
  doneOk : s.result = .ok → s.rspLen = s.exp ∧ s.ackBuf.toList = ackConst
  doneMismatch : s.result = .ackMismatch → s.ackBuf.toList ≠ ackConst ∧ s.rspLen = 0
  doneAckTimeout : s.result = .ackTimeout → s.rspLen = 0
  doneRspTimeout : s.result = .rspTimeout → s.rspLen < s.exp ∧ s.ackBuf.toList = ackConst
  responseKept : ∃ bs, memRead s.buf 0 s.rspLen = some bs
  ackKept : s.phase = .readRsp ∨ s.result = .ok ∨ s.result = .ackMismatch ∨ s.result = .rspTimeout →
    ∀ i : Fin 6, s.ackWritten[i]

/-- What ACCEPT leaves of every field of the state (R122): the frame stands in `BUF` from index 0 and the
rest of `BUF`, `ACKBUF` and `TXLOG` are as before. -/
structure Accepted (s : State) (caller : Caller) (code : Byte) (params : List Byte) (explen : Nat)
    (t : State) : Prop where
  frame : memRead t.buf 0 (9 + params.length) = some (encodeFrame code params)
  bufAbove : ∀ a, 9 + params.length ≤ a → memLookup t.buf a = memLookup s.buf a
  flen : t.flen = 9 + params.length
  exp : t.exp = explen
  rspLen : t.rspLen = 0
  result : t.result = .none
  idx : t.idx = 0
  phase : t.phase = .send
  rxq : t.rxq = []
  txlog : t.txlog = s.txlog
  ackBuf : t.ackBuf = s.ackBuf
  ackWritten : t.ackWritten = s.ackWritten
  cfg : t.cfg = s.cfg
  txReady : t.txReady = s.txReady
  program : t.program = s.program.tail
  schedule : t.schedule = s.schedule
  owner : t.owner = some caller
  answer : t.answer = s.answer
  freeCount : t.freeCount = s.freeCount

/-- The request is within the contract of R31 and its caller is not kept out by another one (R157). -/
def WithinContract (s : State) (caller : Caller) (params : List Byte) (explen : Nat) : Prop :=
  (s.owner = none ∨ s.owner = some caller) ∧ 9 + params.length ≤ s.cfg.bufCap ∧ explen ≤ s.cfg.bufCap

/-- The caller of an instruction that is a request at the host command port (R31, R87). -/
def requester : Instr → Option Caller
  | .cmdFrame _ _ => none
  | .ackFrame => none
  | .rspFrame _ _ _ => none
  | .encode _ _ => none
  | .isAck _ => none
  | .strip _ => none
  | .wellFormed _ _ => none
  | .execute caller _ _ _ => some caller
  | .reset => none
  | .firmwareVersionQuery caller _ _ => some caller
  | .securityModuleConfiguration caller _ _ => some caller
  | .rfRetryConfiguration caller _ _ => some caller
  | .passiveTargetListing caller _ _ => some caller
  | .dataExchange caller _ _ => some caller

/-- The edges of R135's table that a move of the block or of the environment takes, with the condition
and the `RESULT` of each. -/
def PhaseEdge (m : Move) (s t : State) : Prop :=
  (m = .block ∧ s.phase = .send ∧ s.idx + 1 = s.flen ∧ t.phase = .waitAck)
  ∨ (m = .block ∧ s.phase = .waitAck ∧ s.idx + 1 = 6 ∧ isAckFrame t.ackBuf.toList = false
      ∧ t.phase = .idle ∧ t.result = .ackMismatch)
  ∨ (m = .block ∧ s.phase = .waitAck ∧ s.idx + 1 = 6 ∧ isAckFrame t.ackBuf.toList = true ∧ s.exp = 0
      ∧ t.phase = .idle ∧ t.result = .ok)
  ∨ (m = .block ∧ s.phase = .waitAck ∧ s.idx + 1 = 6 ∧ isAckFrame t.ackBuf.toList = true ∧ 1 ≤ s.exp
      ∧ t.phase = .readRsp)
  ∨ (m = .rxTimeout ∧ s.phase = .waitAck ∧ s.rxq = [] ∧ t.phase = .idle ∧ t.result = .ackTimeout)
  ∨ (m = .block ∧ s.phase = .readRsp ∧ s.idx + 1 = s.exp ∧ t.phase = .idle ∧ t.result = .ok)
  ∨ (m = .rxTimeout ∧ s.phase = .readRsp ∧ s.rxq = [] ∧ t.phase = .idle ∧ t.result = .rspTimeout)
  ∨ (m = .reset ∧ t.phase = .idle ∧ t.result = .none)

/-- The block has an exchange in progress and no event of its own: it waits for the transport to take a
byte, or for a byte to arrive (R53, R54). -/
def Waiting (s : State) : Prop :=
  (s.phase = .send ∧ s.txReady = false) ∨ ((s.phase = .waitAck ∨ s.phase = .readRsp) ∧ s.rxq = [])

/-- `n` steps, stopping at the first fault or refusal. -/
def runSteps : Nat → State → Result
  | 0, s => .next s
  | n + 1, s =>
    match step s with
    | .next t => runSteps n t
    | .fault f => .fault f
    | .refused r => .refused r

/-- The bytes a list of moves pushes into the receive queue, in order (R55). -/
def pushedBytes : List Move → List Byte
  | [] => []
  | .devPush b :: ms => b :: pushedBytes ms
  | _ :: ms => pushedBytes ms

/-- The moves of one exchange's environment: the block, the device, the transport. -/
def exchangeMove : Move → Bool
  | .host => false
  | .block => true
  | .devPush _ => true
  | .rxTimeout => true
  | .txReady _ => true
  | .read _ => false
  | .release => false
  | .reset => false

/-- The bytes that `WellBehavedDevice` pushes for one command (R58): the acknowledgment, then one well-formed
response frame with the device's direction byte. -/
def WellBehavedAnswer (dir : Byte) (d : List Byte) : Prop :=
  ∃ rsp, frameWellFormed rsp dir = true ∧ d = ackConst ++ rsp

/-- `TXLOG` has grown from `origin` by one well-formed command frame (R58, R112); a command frame has its
code byte, so it is nine bytes or more (R113). -/
def frameSentSince (origin : List Byte) (s : State) : Bool :=
  decide (origin.length + 9 ≤ s.txlog.length) && frameWellFormed (s.txlog.drop origin.length) dirH2D

/-- The move is the device's (R55). -/
def isPush : Move → Bool
  | .host => false
  | .block => false
  | .devPush _ => true
  | .rxTimeout => false
  | .txReady _ => false
  | .read _ => false
  | .release => false
  | .reset => false

/-- Along the moves from `s`, the device pushes only at moments at which `TXLOG` has grown from `origin` by
the command frame (R58). -/
def pushesOnlyAfterFrame (origin : List Byte) : List Move → State → Bool
  | [], _ => true
  | m :: ms, s =>
    (!isPush m || frameSentSince origin s) &&
      match moveEffect m s with
      | .next t => pushesOnlyAfterFrame origin ms t
      | .fault _ => true
      | .refused _ => true

/-- `WellBehavedDevice` (R58), of the moves that follow the acceptance of one command in `s`: after `TXLOG` has
grown by one well-formed command frame, and not before, the device pushes `answer`, which is the
acknowledgment and then one well-formed response frame, and it pushes nothing else. Log entry 23. -/
structure WellBehavedDevice (dir : Byte) (answer : List Byte) (s : State) (ms : List Move) : Prop where
  form : WellBehavedAnswer dir answer
  afterFrame : pushesOnlyAfterFrame s.txlog ms s = true
  nothingElse : pushedBytes ms <+: answer
  answers : ∀ t, runMoves ms s = .next t → frameSentSince s.txlog t = true → pushedBytes ms = answer

end Sys2Proof.Machine
end

