-- ==== Sys2Proof/Certificates/Slice0/Obligations.lean ====
section
/-! DEFINITION. The statements about the model, for the provers. Each docstring says which rule of the spec
it formalises, or that it is the model's own choice. -/

open Sys2Proof Sys2Proof.Machine

/-! ### The step -/

/-- When the host moves and its next program line decodes, the step is that instruction's meaning, from the
state whose schedule has gone on past the move; a table word put by `withFetchWord` is what runs next.
The program of lines and the schedule are the model's choice (log entries 1 to 3). -/
def Obligations.StepRunsTheDecodedInstruction : Prop :=
  (∀ (s : State) (l : Line) (rest : List Line) (i : Instr),
    nextMove s = .host → s.program = l :: rest → decode l = .ok i → step s = exec i (dropMove s)) ∧
  (∀ (s : State) (nbits w : Nat) (i : Instr), decodeTableWord nbits w = some i →
    step (s.withFetchWord nbits w) = exec i { s with program := tableLine nbits w :: s.program })

/-- A move of another agent than the host's program is the step that the schedule puts next; with an empty
schedule the block takes its own event whenever it has one, and a machine with nothing to do stays as it
is. The schedule is the model's choice (log entry 3); the events are those of R64. -/
def Obligations.StepTakesTheNextMove : Prop :=
  (∀ (s : State) (m : Move) (ms : List Move), s.schedule = m :: ms → m ≠ .host →
    step s = moveEffect m { s with schedule := ms }) ∧
  (∀ s : State, s.schedule = [] → blockReady s = true → step s = blockStep s) ∧
  (∀ s : State, s.schedule = [] → blockReady s = false → s.program = [] → step s = .next s)

/-! ### Encoding -/

/-- Decoding the line of a well-formed instruction gives the instruction back, for every constructor and
every operand its encoding admits. The lines are the model's choice (log entry 1); the bytes in them are
R71's, R77's, R79's and R87's. -/
def Obligations.DecodeOfEncodeIsTheInstruction : Prop :=
  ∀ i : Instr, i.wf = true → decode (encode i) = .ok i

/-- On the wire the other direction holds too: bytes that decode are exactly the bytes their instruction
encodes to, and the instruction is well-formed (the converse half of R113, for command frames). -/
def Obligations.WireBytesThatDecodeAreTheEncoding : Prop :=
  ∀ (l : Line) (i : Instr), (∃ bs, l = .txWire bs ∨ l = .rxWire bs) → decode l = .ok i →
    encode i = l ∧ i.wf = true

/-- Host-to-device bytes decode exactly when they are a well-formed frame with direction byte `D4` and a
code byte. R89 selects `CMD_FRAME` by bytes 0, 1, 2 and 5 and the last one, and the opcode table's
`match_mask_span` names LEN and both checksum laws beside them; that the decoder demands all of these is
the model's deduction (log entry 19). -/
def Obligations.TxWireDecodesExactlyWhenWellFormed : Prop :=
  ∀ bs : List Byte,
    (∃ code params, decode (.txWire bs) = .ok (.cmdFrame code params)) ↔
      9 ≤ bs.length ∧ frameWellFormed bs 0xD4#8 = true

/-- Words laid out by the model from the spec's bytes decode to the instructions they stand for: the five
payload codes, the acknowledgment, and the vectors E1, E2, T1 and T3; the family's NACK and a frame with
a wrong checksum are none. The model's own in it: byte 0 of a table word is its least significant byte
(R89's match numbers write it most significant), and a one-byte word is the first caller's, with no
parameter and `L = 0` (log entry 2); the numbers of the codes (log entry 8); the lines (log entry 1); and
the rejections by name (log entries 17 and 19). -/
def Obligations.SpecWordsDecode : Prop :=
  decodeTableWord 8 0x02 = some (.firmwareVersionQuery .first [] 0) ∧
  decodeTableWord 8 0x14 = some (.securityModuleConfiguration .first [] 0) ∧
  decodeTableWord 8 0x32 = some (.rfRetryConfiguration .first [] 0) ∧
  decodeTableWord 8 0x4A = some (.passiveTargetListing .first [] 0) ∧
  decodeTableWord 8 0x40 = some (.dataExchange .first [] 0) ∧
  decodeTableWord 48 0x00FF00FF0000 = some .ackFrame ∧
  decode (.txWire [0x00, 0x00, 0xFF, 0x02, 0xFE, 0xD4, 0x02, 0x2A, 0x00]) = .ok (.cmdFrame 0x02 []) ∧
  decode (.txWire [0x00, 0x00, 0xFF, 0x05, 0xFB, 0xD4, 0x14, 0x01, 0x14, 0x01, 0x02, 0x00]) =
    .ok (.cmdFrame 0x14 [0x01, 0x14, 0x01]) ∧
  decode (.rxWire [0x00, 0x00, 0xFF, 0x06, 0xFA, 0xD5, 0x03, 0x32, 0x01, 0x06, 0x07, 0xE8, 0x00]) =
    .ok (.rspFrame [0x00, 0x00, 0xFF, 0x06, 0xFA, 0xD5] [0x03, 0x32, 0x01, 0x06, 0x07] [0xE8, 0x00]) ∧
  decode (.rxWire [0x00, 0x00, 0xFF, 0x01, 0xFF, 0xD5, 0x2B, 0x00]) =
    .ok (.rspFrame [0x00, 0x00, 0xFF, 0x01, 0xFF, 0xD5] [] [0x2B, 0x00]) ∧
  decode (.rxWire [0x00, 0x00, 0xFF, 0xFF, 0x00, 0x00]) = .error .noDeviceFrame ∧
  decode (.txWire [0x00, 0x00, 0xFF, 0x02, 0xFE, 0xD4, 0x02, 0x2B, 0x00]) = .error .dataChecksum

/-! ### The Frame Codec -/

/-- The layout of `CMD_FRAME`, byte by byte (R71). -/
def Obligations.CommandFrameLayout : Prop :=
  ∀ (code : Byte) (params f : List Byte), params.length ≤ 253 → encodeFrame code params = f →
    f.length = 9 + params.length ∧
    f[0]? = some 0x00#8 ∧ f[1]? = some 0x00#8 ∧ f[2]? = some 0xFF#8 ∧
    (∃ len, f[3]? = some len ∧ len.toNat = 2 + params.length ∧ f[4]? = some (neg8 len.toNat)) ∧
    f[5]? = some 0xD4#8 ∧ f[6]? = some code ∧
    (∀ i, i < params.length → f[7 + i]? = params[i]?) ∧
    f[7 + params.length]? = some (neg8 (0xD4 + sumBytes (code :: params))) ∧
    f[8 + params.length]? = some 0x00#8

/-- The checksum property of every command frame (R102). -/
def Obligations.ChecksumLawsOfCommandFrames : Prop :=
  ∀ (code : Byte) (params f : List Byte), encodeFrame code params = f →
    ((byteAt f 3).toNat + (byteAt f 4).toNat) % 256 = 0 ∧ sum8 (slice f 5 (7 + (1 + params.length))) = 0

/-- The arithmetic of `neg8` (R11, R73 and the laws the spec derives in R75). -/
def Obligations.NegationLaws : Prop :=
  (∀ x : Nat, (neg8 x).toNat = (256 - x % 256) % 256) ∧
  (∀ x : Nat, (x + (neg8 x).toNat) % 256 = 0) ∧
  (∀ b : Byte, neg8 (neg8 b.toNat).toNat = b) ∧
  (∀ b : Byte, neg8 b.toNat = 0x00#8 ↔ b = 0x00#8)

/-- Changing one byte among LEN and LCS breaks the length law, changing one among DIR, the payload and DCS
breaks the data law, and reordering a payload leaves DCS unchanged (derived in R75). -/
def Obligations.SingleByteErrorsAreDetected : Prop :=
  (∀ (code : Byte) (params f : List Byte) (i : Nat) (b : Byte), encodeFrame code params = f →
    5 ≤ i → i < 8 + params.length → f[i]? ≠ some b →
    sum8 (slice (f.set i b) 5 (8 + params.length)) ≠ 0) ∧
  (∀ (code : Byte) (params f : List Byte) (b : Byte), encodeFrame code params = f →
    (f[3]? ≠ some b → (b.toNat + (byteAt f 4).toNat) % 256 ≠ 0) ∧
    (f[4]? ≠ some b → ((byteAt f 3).toNat + b.toNat) % 256 ≠ 0)) ∧
  (∀ payload payload' : List Byte, payload.Perm payload' → dcsByte payload = dcsByte payload')

/-- `ENCODE` (R101): the frame is handed to the caller, every field but the answer and the program is as
before; a command over capacity is refused. -/
def Obligations.EncodeOperation : Prop :=
  ∀ (s : State) (code : Byte) (params : List Byte), s.cfg.Legal →
    (params.length ≤ paramMax s.cfg →
      exec (.encode code params) s = .next { s with
        program := s.program.tail
        answer := .bytes ([0x00#8, 0x00#8, 0xFF#8, BitVec.ofNat 8 (params.length + 2),
          neg8 (params.length + 2), 0xD4#8] ++ (code :: params)
          ++ [neg8 (0xD4 + sumBytes (code :: params)), 0x00#8]) }) ∧
    (paramMax s.cfg < params.length → exec (.encode code params) s = .refused .commandTooLong)

/-- `ISACK` (R104): true of the six bytes `00 00 FF 00 FF 00` and of nothing else; no well-formed frame is an
acknowledgment. The answer is handed to the caller and nothing else changes. -/
def Obligations.IsAckOperation : Prop :=
  ∀ (s : State) (bs : List Byte),
    exec (.isAck bs) s = .next { s with
      program := s.program.tail
      answer := .bit (decide (bs = [0x00#8, 0x00#8, 0xFF#8, 0x00#8, 0xFF#8, 0x00#8])) } ∧
    (∀ dir, frameWellFormed bs dir = true → isAckFrame bs = false)

/-- `STRIP` (R106): positional, six bytes off the front and two off the end; fewer than eight bytes are
refused. The payload is handed to the caller and nothing else changes. -/
def Obligations.StripOperation : Prop :=
  ∀ (s : State) (bs : List Byte),
    (8 ≤ bs.length → ∃ header payload trailer,
      header.length = 6 ∧ trailer.length = 2 ∧ bs = header ++ payload ++ trailer ∧
      exec (.strip bs) s = .next { s with program := s.program.tail, answer := .bytes payload }) ∧
    (bs.length < 8 → exec (.strip bs) s = .refused .responseTooShort)

/-- `WELLFORMED` (R112): the answer is the conjunction of the spec's conditions, and nothing else changes. -/
def Obligations.WellFormedOperation : Prop :=
  ∀ (s : State) (bs : List Byte) (dir : Byte), ∃ answer : Bool,
    exec (.wellFormed bs dir) s = .next { s with program := s.program.tail, answer := .bit answer } ∧
    (answer = true ↔
      8 ≤ bs.length ∧ bs.length ≤ 262 ∧
      bs[0]? = some 0x00#8 ∧ bs[1]? = some 0x00#8 ∧ bs[2]? = some 0xFF#8 ∧
      (∃ len lcs, bs[3]? = some len ∧ len.toNat = bs.length - 7 ∧
        bs[4]? = some lcs ∧ (len.toNat + lcs.toNat) % 256 = 0) ∧
      bs[5]? = some dir ∧ sumBytes (slice bs 5 (bs.length - 1)) % 256 = 0 ∧
      bs[bs.length - 1]? = some 0x00#8)

/-- `STRIP` undoes `ENCODE` on payloads, so `ENCODE` is injective (derived in R108 and R103). -/
def Obligations.StripUndoesEncode : Prop :=
  (∀ (code : Byte) (params : List Byte), stripFrame (encodeFrame code params) = some (code :: params)) ∧
  (∀ (code code' : Byte) (params params' : List Byte),
    encodeFrame code params = encodeFrame code' params' → code = code' ∧ params = params')

/-- The Frame value of a stripped response (R107): its length equals the frame's own LEN byte exactly when
that byte agrees with the number of bytes read. -/
def Obligations.FrameValueOfAStrippedResponse : Prop :=
  ∀ bs payload : List Byte, stripFrame bs = some payload →
    (frameValue payload).payload = payload ∧
    ((frameValue payload).length = (byteAt bs 3).toNat ↔ (byteAt bs 3).toNat = bs.length - 7)

/-- Every frame `ENCODE` gives is well-formed with `D4` and does not begin like an acknowledgment; every
well-formed `D4` frame of nine bytes or more is the frame of its own payload (derived in R103 and R113). -/
def Obligations.WellFormedFramesAreTheEncodedOnes : Prop :=
  (∀ (code : Byte) (params : List Byte), params.length ≤ 253 →
    frameWellFormed (encodeFrame code params) 0xD4#8 = true ∧
    (encodeFrame code params).take 6 ≠ ackConst) ∧
  (∀ bs : List Byte, frameWellFormed bs 0xD4#8 = true → 9 ≤ bs.length →
    bs = encodeFrame (byteAt bs 6) (slice bs 7 (bs.length - 2)))

/-! ### The wire frames -/

/-- `ACK_FRAME` from the device: its six bytes (R77) enter the receive queue at any moment (R55), and nothing
else changes. That the instruction is the six `DevPush` events in a row is the model's choice (log
entry 4). -/
def Obligations.AckFrameEntersTheQueue : Prop :=
  ∀ s : State, exec .ackFrame s = .next { s with
    program := s.program.tail
    rxq := s.rxq ++ [0x00#8, 0x00#8, 0xFF#8, 0x00#8, 0xFF#8, 0x00#8] }

/-- `RSP_FRAME` from the device: header, payload and trailer enter the receive queue in order at any moment,
whatever the bytes are (R80), and nothing else changes. That the instruction is its `DevPush` events in a
row is the model's choice (log entry 4). -/
def Obligations.RspFrameEntersTheQueue : Prop :=
  ∀ (s : State) (header payload trailer : List Byte),
    exec (.rspFrame header payload trailer) s = .next { s with
      program := s.program.tail
      rxq := s.rxq ++ header ++ payload ++ trailer }

/-- `CMD_FRAME` from the block: while the block is sending this frame, what is still to come of it crosses
the wire in index order and the block goes on to `WAIT_ACK`, with everything else as before; otherwise
the line waits and nothing changes. That the instruction is the SEND steps of R123 in a row is the
model's choice (log entry 4). -/
def Obligations.CmdFrameCrossesTheWire : Prop :=
  (∀ (s : State) (code : Byte) (params : List Byte),
    s.phase = .send → s.txReady = true → s.idx < s.flen → s.flen ≤ s.cfg.bufCap →
    memRead s.buf 0 s.flen = some (encodeFrame code params) →
    exec (.cmdFrame code params) s = .next { s with
      txlog := s.txlog ++ (encodeFrame code params).drop s.idx
      phase := .waitAck
      idx := 0
      program := s.program.tail }) ∧
  (∀ (s : State) (code : Byte) (params : List Byte),
    (s.phase ≠ .send ∨ s.txReady = false ∨ memRead s.buf 0 s.flen ≠ some (encodeFrame code params)) →
    exec (.cmdFrame code params) s = .next s)

/-! ### Acceptance -/

/-- ACCEPT (R122): in `IDLE`, within the contract, `EXECUTE` leaves the frame in `BUF`, the operands latched,
stale input discarded, and the block in `SEND`; `BUF` above the frame, `ACKBUF`, `TXLOG` and every other
field are as before. Whose exchange it is, is the model's own field (log entry 7). -/
def Obligations.ExecuteIsAccepted : Prop :=
  ∀ (s : State) (caller : Caller) (code : Byte) (params : List Byte) (explen : Nat),
    s.phase = .idle → WithinContract s caller params explen →
    ∃ t, exec (.execute caller code params explen) s = .next t ∧ Accepted s caller code params explen t

/-- The five named commands of R87 are accepted as exchanges of their code byte, with the effect of R122. -/
def Obligations.NamedCommandsAreAccepted : Prop :=
  ∀ (s : State) (caller : Caller) (params : List Byte) (explen : Nat),
    s.phase = .idle → WithinContract s caller params explen →
    (∃ t, exec (.firmwareVersionQuery caller params explen) s = .next t ∧
      Accepted s caller 0x02#8 params explen t) ∧
    (∃ t, exec (.securityModuleConfiguration caller params explen) s = .next t ∧
      Accepted s caller 0x14#8 params explen t) ∧
    (∃ t, exec (.rfRetryConfiguration caller params explen) s = .next t ∧
      Accepted s caller 0x32#8 params explen t) ∧
    (∃ t, exec (.passiveTargetListing caller params explen) s = .next t ∧
      Accepted s caller 0x4A#8 params explen t) ∧
    (∃ t, exec (.dataExchange caller params explen) s = .next t ∧
      Accepted s caller 0x40#8 params explen t)

/-- The refusals of R157 and where they are decided (R159): over-capacity operands at acceptance, the command
first; a second caller; a short strip; a read of an `ack_raw` byte that no acknowledgment-byte step has
written. A command presented while its caller's exchange is in progress waits. That `SecondCaller` is
decided before the operand bounds is the model's choice (log entry 7). -/
def Obligations.RefusalsOfTheContract : Prop :=
  (∀ (s : State) (caller : Caller) (code : Byte) (params : List Byte) (explen : Nat),
    (s.owner = none ∨ s.owner = some caller) → s.phase = .idle →
    (s.cfg.bufCap < 9 + params.length →
      exec (.execute caller code params explen) s = .refused .commandTooLong) ∧
    (9 + params.length ≤ s.cfg.bufCap → s.cfg.bufCap < explen →
      exec (.execute caller code params explen) s = .refused .responseTooLong)) ∧
  (∀ (s : State) (caller other : Caller) (code : Byte) (params : List Byte) (explen : Nat),
    s.owner = some other → other ≠ caller →
    exec (.execute caller code params explen) s = .refused .secondCaller) ∧
  (∀ (s : State) (caller : Caller) (code : Byte) (params : List Byte) (explen : Nat),
    (s.owner = none ∨ s.owner = some caller) → s.phase ≠ .idle →
    exec (.execute caller code params explen) s = .next s) ∧
  (∀ (s : State) (code : Byte) (params : List Byte), s.cfg.bufCap < 9 + params.length →
    exec (.encode code params) s = .refused .commandTooLong) ∧
  (∀ (s : State) (bs : List Byte), bs.length < 8 → exec (.strip bs) s = .refused .responseTooShort) ∧
  (∀ s : State, s.rspLen < 8 → moveEffect (.read .rspPayload) s = .refused .responseTooShort) ∧
  (∀ (s : State) (i : Fin 6), s.ackWritten[i] = false →
    moveEffect (.read (.ackByte i)) s = .refused (.readBeforeWrite i.val))

/-- A request of a named command waits while its caller's exchange is in progress, is refused when another
caller holds the block (log entry 7), and in `IDLE` is refused over capacity, the command first (R157,
R159), exactly as `EXECUTE` is. -/
def Obligations.NamedCommandsWaitLikeExecute : Prop :=
  ∀ (s : State) (caller : Caller) (params : List Byte) (explen : Nat) (i : Instr),
    i ∈ [Instr.firmwareVersionQuery caller params explen, .securityModuleConfiguration caller params explen,
      .rfRetryConfiguration caller params explen, .passiveTargetListing caller params explen,
      .dataExchange caller params explen] →
    ((s.owner = none ∨ s.owner = some caller) → s.phase ≠ .idle → exec i s = .next s) ∧
    (∀ other, s.owner = some other → other ≠ caller → exec i s = .refused .secondCaller) ∧
    ((s.owner = none ∨ s.owner = some caller) → s.phase = .idle → s.cfg.bufCap < 9 + params.length →
      exec i s = .refused .commandTooLong) ∧
    ((s.owner = none ∨ s.owner = some caller) → s.phase = .idle → 9 + params.length ≤ s.cfg.bufCap →
      s.cfg.bufCap < explen → exec i s = .refused .responseTooLong)

/-- Who holds the block: an accepted request's caller, until it says that its use of the result is over
while the block is idle, or until a reset. No other move, no instruction but `RESET` and a request, and no
request that waits changes the holder. The spec names no such event; it is the model's choice (log
entry 7). -/
def Obligations.CallerHoldsTheBlockUntilRelease : Prop :=
  (∀ (s t : State) (i : Instr) (caller : Caller), requester i = some caller → s.phase = .idle →
    exec i s = .next t → t.owner = some caller) ∧
  (∀ s : State, s.phase = .idle → moveEffect .release s = .next { s with owner := none }) ∧
  (∀ s : State, s.phase ≠ .idle → moveEffect .release s = .next s) ∧
  (∀ s t : State, moveEffect .reset s = .next t → t.owner = none) ∧
  (∀ s t : State, exec .reset s = .next t → t.owner = none) ∧
  (∀ (s t : State) (m : Move), m ≠ .release → m ≠ .reset → moveEffect m s = .next t → t.owner = s.owner) ∧
  (∀ (s t : State) (i : Instr), i ≠ .reset → (requester i = none ∨ s.phase ≠ .idle) → exec i s = .next t →
    t.owner = s.owner)

/-! ### The events of an exchange -/

/-- SEND step (R123): `BUF[IDX]` is handed to the transport; after the last byte the block waits for the
acknowledgment. After `FLEN` such steps `TXLOG` has grown by exactly `BUF[0 .. FLEN)`. Nothing else
changes, the receive queue among it. -/
def Obligations.SendSteps : Prop :=
  (∀ (s : State) (b : Byte), s.phase = .send → s.txReady = true → s.idx < s.flen →
    bufByte s s.idx = .ok b →
    moveEffect .block s = .next (if s.idx + 1 < s.flen
      then { s with txlog := s.txlog ++ [b], idx := s.idx + 1 }
      else { s with txlog := s.txlog ++ [b], phase := .waitAck, idx := 0 })) ∧
  (∀ (s : State) (frame : List Byte), s.phase = .send → s.txReady = true → s.idx = 0 → 0 < s.flen →
    s.flen ≤ s.cfg.bufCap → memRead s.buf 0 s.flen = some frame →
    runMoves (List.replicate s.flen .block) s =
      .next { s with txlog := s.txlog ++ frame, phase := .waitAck, idx := 0 })

/-- The block never withdraws a byte it has offered (R33): until the transport takes it, every move but a
reset, and every instruction but `RESET` and the command frame's own crossing, leaves the offer and
`TXLOG` as they are. -/
def Obligations.OfferedByteIsNotWithdrawn : Prop :=
  ∀ s t : State, txValid s = true →
    (∀ m : Move, m ≠ .reset → (m = .block → s.txReady = false) → moveEffect m s = .next t →
      txValid t = true ∧ txData t = txData s ∧ t.txlog = s.txlog) ∧
    (∀ i : Instr, i ≠ .reset → (∀ code params, i ≠ .cmdFrame code params) → exec i s = .next t →
      txValid t = true ∧ txData t = txData s ∧ t.txlog = s.txlog)

/-- Acknowledgment-byte step and verdict (R125, R126): the byte is stored at `ACKBUF[IDX]`; the sixth is
judged in the same event, byte for byte against `00 00 FF 00 FF 00`. -/
def Obligations.AckByteStepAndVerdict : Prop :=
  ∀ (s : State) (b : Byte) (rest : List Byte) (ack : Vector Byte 6) (written : Vector Bool 6),
    s.phase = .waitAck → s.idx < 6 → s.rxq = b :: rest →
    ack = s.ackBuf.setIfInBounds s.idx b → written = s.ackWritten.setIfInBounds s.idx true →
    moveEffect .block s = .next (
      if s.idx + 1 < 6 then
        { s with rxq := rest, ackBuf := ack, ackWritten := written, idx := s.idx + 1 }
      else if ack.toList ≠ [0x00#8, 0x00#8, 0xFF#8, 0x00#8, 0xFF#8, 0x00#8] then
        { s with
          rxq := rest, ackBuf := ack, ackWritten := written, result := .ackMismatch, phase := .idle, idx := 0 }
      else if s.exp = 0 then
        { s with rxq := rest, ackBuf := ack, ackWritten := written, result := .ok, phase := .idle, idx := 0 }
      else
        { s with rxq := rest, ackBuf := ack, ackWritten := written, phase := .readRsp, idx := 0 })

/-- Response-byte step (R128): the byte is stored as received at `BUF[IDX]`, every other byte of `BUF` is as
before, `RSP_LEN` counts it, and the `EXP`-th byte completes the exchange with `OK`. -/
def Obligations.RspByteStep : Prop :=
  ∀ (s : State) (b : Byte) (rest : List Byte),
    s.phase = .readRsp → s.idx < s.exp → s.exp ≤ s.cfg.bufCap → s.rxq = b :: rest →
    ∃ t, moveEffect .block s = .next t ∧
      memLookup t.buf s.idx = some b ∧ (∀ a, a ≠ s.idx → memLookup t.buf a = memLookup s.buf a) ∧
      (s.idx + 1 < s.exp →
        t = { s with rxq := rest, buf := t.buf, rspLen := s.idx + 1, idx := s.idx + 1 }) ∧
      (s.idx + 1 = s.exp →
        t = { s with rxq := rest, buf := t.buf, rspLen := s.exp, result := .ok, phase := .idle, idx := 0 })

/-- No response byte is looked at (R80, R110): two different bytes in its place lead to states that differ
in that byte of `BUF` alone. -/
def Obligations.ResponseBytesAreNotInspected : Prop :=
  ∀ (s t : State) (b b' : Byte) (rest : List Byte), s.phase = .readRsp →
    moveEffect .block { s with rxq := b :: rest } = .next t →
    ∃ t', moveEffect .block { s with rxq := b' :: rest } = .next t' ∧ t' = { t with buf := t'.buf } ∧
      ∀ a, a ≠ s.idx → memLookup t'.buf a = memLookup t.buf a

/-- The two timeouts (R127, R130): while the block waits for a byte and none has arrived, `RxTimeout` ends the
exchange, with every byte taken so far kept. In every other case the move has no effect: for `IDLE` and
`SEND` R158 says so; where a byte has arrived, or the transport never times out, R57 says that the event
is not enabled, and that the move then leaves the state as it is is the model's choice (log entry 14). -/
def Obligations.TimeoutSteps : Prop :=
  (∀ s : State, s.cfg.transportMayTimeOut = true → s.rxq = [] → s.phase = .waitAck →
    moveEffect .rxTimeout s = .next { s with result := .ackTimeout, phase := .idle, idx := 0 }) ∧
  (∀ s : State, s.cfg.transportMayTimeOut = true → s.rxq = [] → s.phase = .readRsp →
    moveEffect .rxTimeout s = .next { s with result := .rspTimeout, phase := .idle, idx := 0 }) ∧
  (∀ s : State, (s.cfg.transportMayTimeOut = false ∨ s.rxq ≠ [] ∨ s.phase = .idle ∨ s.phase = .send) →
    moveEffect .rxTimeout s = .next s)

/-- `DevPush` (R55): enabled at every moment for every byte, it appends to the receive queue and does nothing
else; the block does not act on what waits there while it is in `IDLE` or `SEND`, and the next ACCEPT
discards what is still there. -/
def Obligations.DevPushAppends : Prop :=
  (∀ (s : State) (b : Byte), moveEffect (.devPush b) s = .next { s with rxq := s.rxq ++ [b] }) ∧
  (∀ (s t : State) (q : List Byte), (s.phase = .idle ∨ s.phase = .send) → moveEffect .block s = .next t →
    t.rxq = s.rxq ∧ moveEffect .block { s with rxq := q } = .next { t with rxq := q }) ∧
  (∀ (s t : State) (caller : Caller) (code : Byte) (params : List Byte) (explen : Nat), s.phase = .idle →
    exec (.execute caller code params explen) s = .next t → t.rxq = [])

/-- The transport's readiness to take a byte (R33, R53): the transport's own move sets it and does nothing else,
no other move and no instruction changes it, and while it is not set a block in `SEND` stays as it is.
That it is one bit of the environment is the model's deduction (log entry 13). -/
def Obligations.TransportReadiness : Prop :=
  (∀ (s : State) (ready : Bool), moveEffect (.txReady ready) s = .next { s with txReady := ready }) ∧
  (∀ (s t : State) (m : Move), (∀ ready, m ≠ .txReady ready) → moveEffect m s = .next t →
    t.txReady = s.txReady) ∧
  (∀ (s t : State) (i : Instr), exec i s = .next t → t.txReady = s.txReady) ∧
  (∀ s : State, s.phase = .send → s.txReady = false → moveEffect .block s = .next s)

/-- Every change of `PHASE` is an edge of R135's table: a move of the block or of the environment takes one
of its edges with that edge's condition and `RESULT`; an instruction goes from `IDLE` to `SEND` (a
request), or is `RESET`, or is a command frame crossing the wire as a whole. -/
def Obligations.PhaseChangesOnlyAlongTheTable : Prop :=
  (∀ (m : Move) (s t : State), Inv s → moveEffect m s = .next t →
    t.phase = s.phase ∨ PhaseEdge m s t) ∧
  (∀ (i : Instr) (s t : State), exec i s = .next t →
    t.phase = s.phase ∨
    (s.phase = .idle ∧ t.phase = .send ∧
      ∃ caller code params explen, requestExchange caller code params explen s = .next t) ∨
    (i = .reset ∧ t.phase = .idle ∧ t.result = .none) ∨
    (∃ code params, i = .cmdFrame code params ∧ s.phase = .send ∧ t.phase = .waitAck))

/-- What a failure leaves (R160, and the table of R151): the event that ends an exchange in a failure sends
nothing and flushes nothing beyond the byte it took, and leaves what the host can read of it. -/
def Obligations.FailureLeavesTheRecord : Prop :=
  ∀ (m : Move) (s t : State), Inv s → s.phase ≠ .idle → moveEffect m s = .next t → t.phase = .idle →
    isFailure t.result = true →
    t.txlog = s.txlog ∧ t.buf = s.buf ∧ t.flen = s.flen ∧ t.exp = s.exp ∧ t.rspLen = s.rspLen ∧ t.idx = 0 ∧
    (t.result = .ackTimeout → t.rspLen = 0 ∧ t.rxq = [] ∧ t.ackBuf = s.ackBuf ∧
      t.ackWritten = s.ackWritten ∧ s.idx < 6) ∧
    (t.result = .ackMismatch → t.rspLen = 0 ∧ t.rxq = s.rxq.tail ∧ isAckFrame t.ackBuf.toList = false ∧
      ∀ i : Fin 6, t.ackWritten[i]) ∧
    (t.result = .rspTimeout → t.rspLen < t.exp ∧ t.rxq = [] ∧ t.ackBuf.toList = ackConst)

/-! ### Reset and the result port -/

/-- `RESET` (R175, R37): as an instruction and as a move of the environment, in any phase, it puts `FLEN`,
`IDX`, `EXP` and `RSP_LEN` at 0, `PHASE` at `IDLE` and `RESULT` at `NONE`, lets no byte of `ACKBUF` be read,
and does not act on the transport. R37 leaves `BUF` unspecified and lets a model give it no value or any
value; that no byte of it has a value is the model's choice (log entry 6). -/
def Obligations.ResetEffect : Prop :=
  ∀ s : State, ∃ t,
    moveEffect .reset s = .next t ∧
    exec .reset s = .next { t with program := s.program.tail } ∧
    t.flen = 0 ∧ t.phase = .idle ∧ t.idx = 0 ∧ t.exp = 0 ∧ t.rspLen = 0 ∧ t.result = .none ∧
    (∀ a, memLookup t.buf a = none) ∧
    (∀ i : Fin 6, moveEffect (.read (.ackByte i)) t = .refused (.readBeforeWrite i.val)) ∧
    t.rxq = s.rxq ∧ t.txlog = s.txlog ∧ t.txReady = s.txReady ∧ t.cfg = s.cfg ∧
    t.program = s.program ∧ t.schedule = s.schedule ∧ t.answer = s.answer

/-- `RESET` while a frame is being sent (R176): the transport has taken the first `k` bytes and never takes
the rest; the exchange has no outcome and what has arrived stays. -/
def Obligations.ResetCutsTheFrame : Prop :=
  ∀ (s : State) (frame : List Byte) (k : Nat), s.phase = .send → s.txReady = true → s.idx = 0 →
    k < s.flen → s.flen ≤ s.cfg.bufCap → memRead s.buf 0 s.flen = some frame →
    ∃ t, runMoves (List.replicate k .block ++ [.reset]) s = .next t ∧
      t.txlog = s.txlog ++ frame.take k ∧ t.phase = .idle ∧ t.result = .none ∧ t.rspLen = 0 ∧
      t.rxq = s.rxq ∧
      ∀ n, runMoves (List.replicate n .block) t = .next t

/-- The host result port (R32): every read is defined in every state the invariant holds of, but for
`rsp_payload` with fewer than eight bytes and for unwritten bytes of `ack_raw`; a read changes nothing
but what the host holds. -/
def Obligations.ResultPortReads : Prop :=
  ∀ s : State, Inv s →
    moveEffect (.read .busy) s = .next { s with answer := .bit (decide (s.phase ≠ .idle)) } ∧
    moveEffect (.read .cmdReady) s = .next { s with answer := .bit (decide (s.phase = .idle)) } ∧
    moveEffect (.read .result) s = .next { s with answer := .outcome s.result } ∧
    moveEffect (.read .rspLen) s = .next { s with answer := .number s.rspLen } ∧
    (∃ bs, memRead s.buf 0 s.rspLen = some bs ∧
      moveEffect (.read .rspRaw) s = .next { s with answer := .bytes bs } ∧
      (8 ≤ s.rspLen → moveEffect (.read .rspPayload) s =
        .next { s with answer := .bytes (slice bs 6 (s.rspLen - 2)) }) ∧
      (s.rspLen < 8 → moveEffect (.read .rspPayload) s = .refused .responseTooShort)) ∧
    (∀ i : Fin 6, s.ackWritten[i] = true →
      moveEffect (.read (.ackByte i)) s = .next { s with answer := .byte s.ackBuf[i] }) ∧
    ((∀ i : Fin 6, s.ackWritten[i] = true) →
      moveEffect (.read .ackRaw) s = .next { s with answer := .bytes s.ackBuf.toList }) ∧
    (∀ i : Fin 6, s.ackWritten[i] = false →
      moveEffect (.read (.ackByte i)) s = .refused (.readBeforeWrite i.val) ∧
      ∃ j : Fin 6, moveEffect (.read .ackRaw) s = .refused (.readBeforeWrite j.val))

/-- Bytes of `BUF` at `RSP_LEN` and above are not on the result port (R32): whatever they hold, a read hands
over the same value. -/
def Obligations.BufferAboveTheResponseIsHidden : Prop :=
  ∀ (s t : State) (m : Memory) (p : PortSelect),
    (∀ a, a < s.rspLen → memLookup m a = memLookup s.buf a) → moveEffect (.read p) s = .next t →
    moveEffect (.read p) { s with buf := m } = .next { t with buf := m }

/-! ### Invariants -/

/-- The invariant holds at reset. Its items are R38's and the model's own (every byte the block reads has a
value; log entries 5 to 7). -/
def Obligations.ResetMeetsTheInvariant : Prop := Inv State.reset

/-- Every step keeps the invariant: from every state that meets it, whatever the program, the schedule, the
device's bytes and the transport's behaviour. -/
def Obligations.StepKeepsTheInvariant : Prop :=
  ∀ s t : State, Inv s → step s = .next t → Inv t

/-- No step of a state that meets the invariant ends in a fault: every access to `BUF` and `ACKBUF` is inside
the buffer and reads a byte that has a value (R45, R137). -/
def Obligations.NoStepFaults : Prop :=
  ∀ (s : State) (f : Fault), Inv s → step s ≠ .fault f

/-- Every step keeps the buffer's storage in its canonical form and the instance's parameters as they are
(R9), in every state. -/
def Obligations.StepKeepsCanonicalBufferAndParameters : Prop :=
  ∀ s t : State, step s = .next t →
    (Memory.wf s.buf = true → Memory.wf t.buf = true) ∧ t.cfg = s.cfg

/-- The transmit stream is append only (R45, R51) and only a block in `SEND` appends to it; what a step
appends is read from `BUF` at `IDX` and above. -/
def Obligations.TransmitLogOnlyGrowsWhileSending : Prop :=
  ∀ s t : State, step s = .next t →
    ∃ bs, t.txlog = s.txlog ++ bs ∧
      (bs ≠ [] → s.phase = .send ∧ s.txReady = true ∧ memRead s.buf s.idx bs.length = some bs)

/-! ### Whole exchanges -/

/-- The exchange as one function (derived in R139): from an idle block with a request within the contract,
the device's bytes arriving right after the flush, the block's events and a timeout at the end, the
outcome, `rsp_raw`, `RXQ` and `TXLOG` are what `EXCHANGE` says, for every device. -/
def Obligations.ExchangeAsOneFunction : Prop :=
  ∀ (s : State) (caller : Caller) (code : Byte) (params : List Byte) (explen : Nat) (d : List Byte),
    s.phase = .idle → WithinContract s caller params explen → s.txReady = true →
    s.cfg.transportMayTimeOut = true →
    ∃ t, runSteps (1 + d.length + (9 + params.length + d.length) + 1)
        { s with
          program := .command caller (code :: params) explen :: s.program
          schedule := .host :: (d.map .devPush ++ List.replicate (9 + params.length + d.length) .block
            ++ [.rxTimeout]) } = .next t ∧
      t.phase = .idle ∧ t.program = s.program ∧
      t.result = (exchange explen d).outcome ∧ rspRaw t = .ok (exchange explen d).rsp ∧
      t.rxq = (exchange explen d).left ∧ t.txlog = s.txlog ++ encodeFrame code params

/-- Whatever order the block's events, the device's bytes and the transport's timeouts fall in, an exchange
that has ended has sent its whole frame once, has taken a prefix of the device's bytes, and has the
outcome those bytes give (derived in R138; no retry, R140). -/
def Obligations.EveryInterleavingEndsAsTheBytesSay : Prop :=
  ∀ (s t0 t : State) (caller : Caller) (code : Byte) (params : List Byte) (explen : Nat) (ms : List Move),
    s.phase = .idle → exec (.execute caller code params explen) s = .next t0 →
    (∀ m ∈ ms, exchangeMove m = true) → runMoves ms t0 = .next t → t.phase = .idle →
    t.txlog = s.txlog ++ encodeFrame code params ∧
    ∃ k, k ≤ (pushedBytes ms).length ∧ t.rxq = (pushedBytes ms).drop k ∧
      ((t.result = .ackTimeout ∧ k < 6 ∧ rspRaw t = .ok []) ∨
       (t.result = .ackMismatch ∧ k = 6 ∧ (pushedBytes ms).take 6 ≠ ackConst ∧ rspRaw t = .ok []) ∨
       (t.result = .rspTimeout ∧ 6 ≤ k ∧ k < 6 + explen ∧ (pushedBytes ms).take 6 = ackConst ∧
         rspRaw t = .ok (slice (pushedBytes ms) 6 k)) ∨
       (t.result = .ok ∧ k = 6 + explen ∧ (pushedBytes ms).take 6 = ackConst ∧
         rspRaw t = .ok (slice (pushedBytes ms) 6 k)))

/-- No byte of the payload selects any behaviour of the block (R87): two commands of the same length, with
the same environment, go through the same phases to the same outcome and the same response; only the
bytes sent differ, and not in number. -/
def Obligations.PayloadSelectsNoBehaviour : Prop :=
  ∀ (s t t' u : State) (caller : Caller) (code code' : Byte) (params params' : List Byte) (explen : Nat)
    (ms : List Move),
    s.phase = .idle → params.length = params'.length →
    exec (.execute caller code params explen) s = .next t →
    exec (.execute caller code' params' explen) s = .next t' →
    (∀ m ∈ ms, exchangeMove m = true) → runMoves ms t = .next u →
    ∃ u', runMoves ms t' = .next u' ∧ u'.phase = u.phase ∧ u'.idx = u.idx ∧ u'.result = u.result ∧
      u'.rspLen = u.rspLen ∧ rspRaw u' = rspRaw u ∧ u'.ackBuf = u.ackBuf ∧ u'.rxq = u.rxq ∧
      u'.txlog.length = u.txlog.length

/-- Hangs are infinite runs (R136, R185): a block that waits, with nothing left to happen around it, stays
exactly as it is for ever; and with a transport that never times out, no order of the block's events and
the transport's brings a silent exchange to an end. -/
def Obligations.WaitingLastsForEver : Prop :=
  (∀ s : State, Waiting s → s.schedule = [] → s.program = [] → ∀ n, runSteps n s = .next s) ∧
  (∀ (s : State) (ms : List Move), s.cfg.transportMayTimeOut = false →
    (s.phase = .waitAck ∨ s.phase = .readRsp) → s.rxq = [] →
    (∀ m ∈ ms, exchangeMove m = true) → pushedBytes ms = [] →
    ∃ t, runMoves ms s = .next t ∧ t.phase = s.phase ∧ t.result = s.result ∧ busy t = true ∧
      t.txlog = s.txlog)

/-- With the device well-behaved and the right length declared, the exchange is `OK`, nothing is left in the
queue and the stripped payload is the device's (R58, R107); one stray byte ahead of the acknowledgment is
a mismatch and is not searched past (R48, R105); a length declared too small cuts the response, still
`OK` (R184). -/
def Obligations.WellBehavedDeviceGivesItsPayload : Prop :=
  (∀ (dir : Byte) (d : List Byte), WellBehavedAnswer dir d →
    ∃ header payload trailer, header.length = 6 ∧ trailer.length = 2 ∧
      d = ackConst ++ (header ++ payload ++ trailer) ∧
      exchange (d.length - 6) d = { outcome := .ok, rsp := header ++ payload ++ trailer, left := [] } ∧
      stripFrame (exchange (d.length - 6) d).rsp = some payload) ∧
  (∀ (stray : Byte) (explen : Nat) (rest : List Byte),
    exchange explen (stray :: ackConst ++ rest) =
      { outcome := .ackMismatch, rsp := [], left := 0x00#8 :: rest }) ∧
  (∀ (explen : Nat) (response : List Byte), explen ≤ response.length →
    exchange explen (ackConst ++ response) =
      { outcome := .ok, rsp := response.take explen, left := response.drop explen })

/-- `WellBehavedDevice` (R58) in a run of the machine: from an accepted command with the right length declared, in
every order of the events of the block, the device and the transport in which no read gives up, nothing
waits in the queue while the block is still sending; and once the device has seen the frame and answered,
finitely many further events of the block complete the exchange with `OK`, `rsp_raw` is the device's
response, stripping it gives the device's payload, and nothing is left in the queue. How the predicate
reads R58 along a run is log entry 23. -/
def Obligations.WellBehavedDeviceCompletesTheExchange : Prop :=
  ∀ (s t : State) (caller : Caller) (code : Byte) (params : List Byte) (dir : Byte) (answer : List Byte)
    (ms : List Move),
    s.cfg.Legal → s.phase = .idle →
    exec (.execute caller code params (answer.length - 6)) s = .next t →
    (∀ m ∈ ms, exchangeMove m = true ∧ m ≠ .rxTimeout) → WellBehavedDevice dir answer t ms →
    (∀ (before after : List Move) (u : State), ms = before ++ after → runMoves before t = .next u →
      u.phase = .send → u.rxq = []) ∧
    (∀ u, runMoves ms t = .next u → frameSentSince t.txlog u = true →
      ∃ v header payload trailer, runMoves (ms ++ List.replicate answer.length .block) t = .next v ∧
        v.phase = .idle ∧ v.result = .ok ∧ v.rxq = [] ∧ v.txlog = s.txlog ++ encodeFrame code params ∧
        header.length = 6 ∧ trailer.length = 2 ∧ answer = ackConst ++ (header ++ payload ++ trailer) ∧
        rspRaw v = .ok (header ++ payload ++ trailer) ∧
        stripFrame (header ++ payload ++ trailer) = some payload)

/-- The codes of `RESULT` (R28, decision D10): `NONE` 0, `OK` 1, `ACK_TIMEOUT` 2, `ACK_MISMATCH` 3,
`RSP_TIMEOUT` 4; no value has a reserved code, and no two share one. -/
def Obligations.ResultCodes : Prop :=
  resultCode .none = 0#3 ∧ resultCode .ok = 1#3 ∧ resultCode .ackTimeout = 2#3 ∧
  resultCode .ackMismatch = 3#3 ∧ resultCode .rspTimeout = 4#3 ∧
  (∀ r, (resultCode r).toNat ≤ 4) ∧ (∀ r r', resultCode r = resultCode r' → r = r')

/-- The derived parameters (R8): for a legal `BUF_CAP`, a frame fits the buffer exactly when its parameters
are at most `PARAM_MAX = BUF_CAP - 9`, its payload at most `PAYLOAD_MAX = BUF_CAP - 8`, and then its LEN
byte is not reduced (R72). -/
def Obligations.OperandBounds : Prop :=
  ∀ (c : Config) (params : List Byte), c.Legal →
    (commandFits c params = true ↔ params.length ≤ paramMax c) ∧
    (commandFits c params = true ↔ params.length + 1 ≤ payloadMax c) ∧
    (commandFits c params = true → ∀ code, (lenByte (payloadOf code params)).toNat = 2 + params.length)
end

