-- ==== Sys2Proof/Laws/Codec.lean ====
section
/-! SUPPORT. The small lemmas of the Frame Codec: sums, checksum bytes, slices, and the parts of an encoded
frame. -/

namespace Sys2Proof.Machine

@[simp] theorem sumBytes_nil : sumBytes [] = 0 := rfl

@[simp] theorem sumBytes_cons (b : Byte) (bs : List Byte) : sumBytes (b :: bs) = b.toNat + sumBytes bs := rfl

@[simp] theorem sumBytes_append (xs ys : List Byte) : sumBytes (xs ++ ys) = sumBytes xs + sumBytes ys := by
  induction xs with
  | nil => simp
  | cons b bs ih => simp [ih, Nat.add_assoc]

/-- `neg8` as a natural number. -/
theorem neg8_toNat (x : Nat) : (neg8 x).toNat = (256 - x % 256) % 256 := by simp [neg8]

/-- A quantity and its `neg8` sum to 0 modulo 256 (R73, R74). -/
theorem add_neg8_mod (x : Nat) : (x + (neg8 x).toNat) % 256 = 0 := by rw [neg8_toNat]; omega

theorem slice_eq_nil (bs : List Byte) {a b : Nat} (h : b ≤ a) : slice bs a b = [] := by
  simp [slice, Nat.sub_eq_zero_of_le h]

@[simp] theorem payloadOf_length (code : Byte) (params : List Byte) :
    (payloadOf code params).length = params.length + 1 := rfl

/-- The frame of a command is `9 + p` bytes (R70). -/
@[simp] theorem encodeFrame_length (code : Byte) (params : List Byte) :
    (encodeFrame code params).length = 9 + params.length := by
  simp [encodeFrame, payloadOf]; omega

/-- The frame, written out (R71). -/
theorem encodeFrame_eq (code : Byte) (params : List Byte) :
    encodeFrame code params =
      0x00#8 :: 0x00#8 :: 0xFF#8 :: lenByte (payloadOf code params) :: lcsByte (payloadOf code params)
        :: dirH2D :: code :: (params ++ [dcsByte (payloadOf code params), 0x00#8]) := by
  simp [encodeFrame, payloadOf]

theorem isAckFrame_iff (bs : List Byte) : isAckFrame bs = true ↔ bs = ackConst := by simp [isAckFrame]

theorem stripFrame_eq_some (bs : List Byte) (h : 8 ≤ bs.length) :
    stripFrame bs = some (slice bs 6 (bs.length - 2)) := by
  simp [stripFrame, overhead, hdrLen, trlLen, Nat.not_lt.mpr h]

theorem stripFrame_eq_none (bs : List Byte) : stripFrame bs = none ↔ bs.length < 8 := by
  by_cases h : bs.length < 8 <;> simp [stripFrame, overhead, hdrLen, trlLen, h]

end Sys2Proof.Machine
end

