-- ==== Sys2Proof/Laws/Memory.lean ====
section
/-! SUPPORT. The laws of `BUF`'s storage: read after write, everything else unchanged, the canonical form
kept. -/

namespace Sys2Proof.Machine

@[simp] theorem memLookup_nil (a : Nat) : memLookup [] a = none := rfl

@[simp] theorem memLookup_memInsert_self (m : Memory) (a : Nat) (b : Byte) :
    memLookup (memInsert m a b) a = some b := by
  induction m with
  | nil => simp [memInsert, memLookup]
  | cons e rest ih =>
    obtain ⟨k, v⟩ := e
    unfold memInsert
    split
    · simp [memLookup]
    · split
      · simp [memLookup]
      · rw [memLookup, if_neg (by omega)]
        exact ih

theorem memLookup_memInsert_ne (m : Memory) {a c : Nat} (b : Byte) (h : c ≠ a) :
    memLookup (memInsert m a b) c = memLookup m c := by
  induction m with
  | nil => simp [memInsert, memLookup, h.symm]
  | cons e rest ih =>
    obtain ⟨k, v⟩ := e
    unfold memInsert
    split
    · simp [memLookup, h.symm]
    · split
      · subst_vars
        simp [memLookup, h.symm]
      · simp only [memLookup]
        split
        · rfl
        · exact ih

/-- A write leaves every address outside the written range alone. -/
theorem memLookup_memWrite_outside (bs : List Byte) (m : Memory) (a c : Nat)
    (h : c < a ∨ a + bs.length ≤ c) : memLookup (memWrite m a bs) c = memLookup m c := by
  induction bs generalizing m a with
  | nil => rfl
  | cons b bs ih =>
    simp only [List.length_cons] at h
    rw [memWrite, ih _ _ (by omega), memLookup_memInsert_ne _ _ (by omega)]

/-- A write is what a read inside the written range gives. -/
theorem memLookup_memWrite_inside (bs : List Byte) (m : Memory) (a i : Nat) (h : i < bs.length) :
    memLookup (memWrite m a bs) (a + i) = some bs[i] := by
  induction bs generalizing m a i with
  | nil => simp at h
  | cons b bs ih =>
    rw [memWrite]
    cases i with
    | zero =>
      rw [Nat.add_zero, memLookup_memWrite_outside _ _ _ _ (by omega)]
      simp
    | succ j =>
      have := ih (memInsert m a b) (a + 1) j (by simpa using h)
      rw [show a + (j + 1) = a + 1 + j by omega, this]
      rfl

/-- A range read gives a byte string exactly when each of its bytes has its value. -/
theorem memRead_eq_some_iff (m : Memory) (a n : Nat) (bs : List Byte) :
    memRead m a n = some bs ↔ bs.length = n ∧ ∀ i (h : i < bs.length), memLookup m (a + i) = some bs[i] := by
  induction n generalizing a bs with
  | zero =>
    cases bs <;> simp [memRead]
  | succ n ih =>
    rw [memRead]
    cases bs with
    | nil =>
      cases hb : memLookup m a <;> simp
    | cons c cs =>
      cases hb : memLookup m a with
      | none =>
        simp only [List.length_cons, reduceCtorEq, false_iff, not_and]
        intro _ h
        have := h 0 (by simp)
        simp [hb] at this
      | some b =>
        simp only [Option.map_eq_some_iff, List.cons.injEq, List.length_cons]
        constructor
        · rintro ⟨cs', hr, rfl, rfl⟩
          obtain ⟨hl, hv⟩ := (ih (a + 1) cs').mp hr
          refine ⟨by omega, fun i hi => ?_⟩
          cases i with
          | zero => simpa using hb
          | succ j =>
            rw [show a + (j + 1) = a + 1 + j by omega]
            exact hv j (by simpa using hi)
        · rintro ⟨hl, hv⟩
          refine ⟨cs, (ih (a + 1) cs).mpr ⟨by omega, fun i hi => ?_⟩, ?_, rfl⟩
          · have := hv (i + 1) (by simpa using hi)
            rw [show a + (i + 1) = a + 1 + i by omega] at this
            exact this
          · have := hv 0 (by simp)
            simpa [hb] using this

/-- A range just written reads as what was written. -/
theorem memRead_memWrite (m : Memory) (a : Nat) (bs : List Byte) :
    memRead (memWrite m a bs) a bs.length = some bs :=
  (memRead_eq_some_iff _ _ _ _).mpr ⟨rfl, fun i h => memLookup_memWrite_inside bs m a i h⟩

/-- A range read depends on the bytes of its range alone. -/
theorem memRead_congr {m m' : Memory} {a n : Nat} (h : ∀ c, a ≤ c → c < a + n → memLookup m' c = memLookup m c) :
    memRead m' a n = memRead m a n := by
  induction n generalizing a with
  | zero => rfl
  | succ n ih =>
    rw [memRead, memRead, h a (by omega) (by omega), ih fun c h1 h2 => h c (by omega) (by omega)]

theorem memRead_succ_right {m : Memory} {a n : Nat} {bs : List Byte} {b : Byte}
    (h : memRead m a n = some bs) (hb : memLookup m (a + n) = some b) :
    memRead m a (n + 1) = some (bs ++ [b]) := by
  obtain ⟨hl, hv⟩ := (memRead_eq_some_iff _ _ _ _).mp h
  refine (memRead_eq_some_iff _ _ _ _).mpr ⟨by simp [hl], fun i hi => ?_⟩
  by_cases hi' : i < bs.length
  · rw [List.getElem_append_left hi']
    exact hv i hi'
  · have : i = n := by simp at hi; omega
    subst this
    simp [← hl] at hb ⊢
    exact hb

/-- Where the canonical form starts: every later address is above the first. -/
theorem Memory.wf_cons (e : Host.Cell) (rest : Memory) :
    Memory.wf (e :: rest) = true ↔ (∀ c ∈ rest.head?, e.1 < c.1) ∧ Memory.wf rest = true := by
  cases rest with
  | nil => simp [Memory.wf]
  | cons f rest => obtain ⟨a, b⟩ := e; obtain ⟨c, d⟩ := f; simp [Memory.wf]

theorem memInsert_head (m : Memory) (a : Nat) (b : Byte) :
    ∀ c ∈ (memInsert m a b).head?, c.1 = a ∨ ∃ e ∈ m.head?, e.1 = c.1 ∧ e.1 < a := by
  cases m with
  | nil => simp [memInsert]
  | cons e rest =>
    obtain ⟨k, v⟩ := e
    unfold memInsert
    split
    · simp
    · split
      · simp
      · simp; omega

/-- A store keeps the canonical form. -/
theorem memInsert_wf (m : Memory) (a : Nat) (b : Byte) (h : Memory.wf m = true) :
    Memory.wf (memInsert m a b) = true := by
  induction m with
  | nil => rfl
  | cons e rest ih =>
    obtain ⟨k, v⟩ := e
    obtain ⟨hh, hr⟩ := (Memory.wf_cons _ _).mp h
    unfold memInsert
    split
    · exact (Memory.wf_cons _ _).mpr ⟨by simp; omega, h⟩
    · split
      · subst_vars
        exact (Memory.wf_cons _ _).mpr ⟨hh, hr⟩
      · refine (Memory.wf_cons _ _).mpr ⟨fun c hc => ?_, ih hr⟩
        rcases memInsert_head rest a b c hc with rfl | ⟨e, he, h1, _⟩
        · simp; omega
        · have := hh e he
          simp at this ⊢
          omega

/-- A write keeps the canonical form. -/
theorem memWrite_wf (m : Memory) (a : Nat) (bs : List Byte) (h : Memory.wf m = true) :
    Memory.wf (memWrite m a bs) = true := by
  induction bs generalizing m a with
  | nil => exact h
  | cons b bs ih => exact ih _ _ (memInsert_wf _ _ _ h)

/-- The reset state's buffer is in canonical form. -/
theorem reset_buf_wf : Memory.wf State.reset.buf = true := rfl

end Sys2Proof.Machine
end

