-- ==== Sys2Proof/Laws/State.lean ====
section
/-! SUPPORT. One lemma per field of `State` per named update, so that no proof unfolds an update. -/

namespace Sys2Proof.Machine

variable (s : State)

@[simp] theorem retire_cfg : (retire s).cfg = s.cfg := rfl
@[simp] theorem retire_buf : (retire s).buf = s.buf := rfl
@[simp] theorem retire_ackBuf : (retire s).ackBuf = s.ackBuf := rfl
@[simp] theorem retire_flen : (retire s).flen = s.flen := rfl
@[simp] theorem retire_phase : (retire s).phase = s.phase := rfl
@[simp] theorem retire_idx : (retire s).idx = s.idx := rfl
@[simp] theorem retire_exp : (retire s).exp = s.exp := rfl
@[simp] theorem retire_rspLen : (retire s).rspLen = s.rspLen := rfl
@[simp] theorem retire_result : (retire s).result = s.result := rfl
@[simp] theorem retire_rxq : (retire s).rxq = s.rxq := rfl
@[simp] theorem retire_txlog : (retire s).txlog = s.txlog := rfl
@[simp] theorem retire_txReady : (retire s).txReady = s.txReady := rfl
@[simp] theorem retire_program : (retire s).program = s.program.tail := rfl
@[simp] theorem retire_schedule : (retire s).schedule = s.schedule := rfl
@[simp] theorem retire_owner : (retire s).owner = s.owner := rfl
@[simp] theorem retire_answer : (retire s).answer = s.answer := rfl
@[simp] theorem retire_ackWritten : (retire s).ackWritten = s.ackWritten := rfl
@[simp] theorem retire_freeCount : (retire s).freeCount = s.freeCount := rfl

@[simp] theorem dropMove_cfg : (dropMove s).cfg = s.cfg := rfl
@[simp] theorem dropMove_buf : (dropMove s).buf = s.buf := rfl
@[simp] theorem dropMove_ackBuf : (dropMove s).ackBuf = s.ackBuf := rfl
@[simp] theorem dropMove_flen : (dropMove s).flen = s.flen := rfl
@[simp] theorem dropMove_phase : (dropMove s).phase = s.phase := rfl
@[simp] theorem dropMove_idx : (dropMove s).idx = s.idx := rfl
@[simp] theorem dropMove_exp : (dropMove s).exp = s.exp := rfl
@[simp] theorem dropMove_rspLen : (dropMove s).rspLen = s.rspLen := rfl
@[simp] theorem dropMove_result : (dropMove s).result = s.result := rfl
@[simp] theorem dropMove_rxq : (dropMove s).rxq = s.rxq := rfl
@[simp] theorem dropMove_txlog : (dropMove s).txlog = s.txlog := rfl
@[simp] theorem dropMove_txReady : (dropMove s).txReady = s.txReady := rfl
@[simp] theorem dropMove_program : (dropMove s).program = s.program := rfl
@[simp] theorem dropMove_schedule : (dropMove s).schedule = s.schedule.tail := rfl
@[simp] theorem dropMove_owner : (dropMove s).owner = s.owner := rfl
@[simp] theorem dropMove_answer : (dropMove s).answer = s.answer := rfl
@[simp] theorem dropMove_ackWritten : (dropMove s).ackWritten = s.ackWritten := rfl
@[simp] theorem dropMove_freeCount : (dropMove s).freeCount = s.freeCount := rfl

@[simp] theorem give_cfg (a : Answer) : (give a s).cfg = s.cfg := rfl
@[simp] theorem give_buf (a : Answer) : (give a s).buf = s.buf := rfl
@[simp] theorem give_ackBuf (a : Answer) : (give a s).ackBuf = s.ackBuf := rfl
@[simp] theorem give_flen (a : Answer) : (give a s).flen = s.flen := rfl
@[simp] theorem give_phase (a : Answer) : (give a s).phase = s.phase := rfl
@[simp] theorem give_idx (a : Answer) : (give a s).idx = s.idx := rfl
@[simp] theorem give_exp (a : Answer) : (give a s).exp = s.exp := rfl
@[simp] theorem give_rspLen (a : Answer) : (give a s).rspLen = s.rspLen := rfl
@[simp] theorem give_result (a : Answer) : (give a s).result = s.result := rfl
@[simp] theorem give_rxq (a : Answer) : (give a s).rxq = s.rxq := rfl
@[simp] theorem give_txlog (a : Answer) : (give a s).txlog = s.txlog := rfl
@[simp] theorem give_txReady (a : Answer) : (give a s).txReady = s.txReady := rfl
@[simp] theorem give_program (a : Answer) : (give a s).program = s.program := rfl
@[simp] theorem give_schedule (a : Answer) : (give a s).schedule = s.schedule := rfl
@[simp] theorem give_owner (a : Answer) : (give a s).owner = s.owner := rfl
@[simp] theorem give_answer (a : Answer) : (give a s).answer = a := rfl
@[simp] theorem give_ackWritten (a : Answer) : (give a s).ackWritten = s.ackWritten := rfl
@[simp] theorem give_freeCount (a : Answer) : (give a s).freeCount = s.freeCount := rfl

@[simp] theorem txByte_cfg (b : Byte) : (txByte b s).cfg = s.cfg := rfl
@[simp] theorem txByte_buf (b : Byte) : (txByte b s).buf = s.buf := rfl
@[simp] theorem txByte_ackBuf (b : Byte) : (txByte b s).ackBuf = s.ackBuf := rfl
@[simp] theorem txByte_flen (b : Byte) : (txByte b s).flen = s.flen := rfl
@[simp] theorem txByte_phase (b : Byte) : (txByte b s).phase = s.phase := rfl
@[simp] theorem txByte_idx (b : Byte) : (txByte b s).idx = s.idx := rfl
@[simp] theorem txByte_exp (b : Byte) : (txByte b s).exp = s.exp := rfl
@[simp] theorem txByte_rspLen (b : Byte) : (txByte b s).rspLen = s.rspLen := rfl
@[simp] theorem txByte_result (b : Byte) : (txByte b s).result = s.result := rfl
@[simp] theorem txByte_rxq (b : Byte) : (txByte b s).rxq = s.rxq := rfl
@[simp] theorem txByte_txlog (b : Byte) : (txByte b s).txlog = s.txlog ++ [b] := rfl
@[simp] theorem txByte_txReady (b : Byte) : (txByte b s).txReady = s.txReady := rfl
@[simp] theorem txByte_program (b : Byte) : (txByte b s).program = s.program := rfl
@[simp] theorem txByte_schedule (b : Byte) : (txByte b s).schedule = s.schedule := rfl
@[simp] theorem txByte_owner (b : Byte) : (txByte b s).owner = s.owner := rfl
@[simp] theorem txByte_answer (b : Byte) : (txByte b s).answer = s.answer := rfl
@[simp] theorem txByte_ackWritten (b : Byte) : (txByte b s).ackWritten = s.ackWritten := rfl
@[simp] theorem txByte_freeCount (b : Byte) : (txByte b s).freeCount = s.freeCount := rfl

@[simp] theorem rxPush_cfg (bs : List Byte) : (rxPush bs s).cfg = s.cfg := rfl
@[simp] theorem rxPush_buf (bs : List Byte) : (rxPush bs s).buf = s.buf := rfl
@[simp] theorem rxPush_ackBuf (bs : List Byte) : (rxPush bs s).ackBuf = s.ackBuf := rfl
@[simp] theorem rxPush_flen (bs : List Byte) : (rxPush bs s).flen = s.flen := rfl
@[simp] theorem rxPush_phase (bs : List Byte) : (rxPush bs s).phase = s.phase := rfl
@[simp] theorem rxPush_idx (bs : List Byte) : (rxPush bs s).idx = s.idx := rfl
@[simp] theorem rxPush_exp (bs : List Byte) : (rxPush bs s).exp = s.exp := rfl
@[simp] theorem rxPush_rspLen (bs : List Byte) : (rxPush bs s).rspLen = s.rspLen := rfl
@[simp] theorem rxPush_result (bs : List Byte) : (rxPush bs s).result = s.result := rfl
@[simp] theorem rxPush_rxq (bs : List Byte) : (rxPush bs s).rxq = s.rxq ++ bs := rfl
@[simp] theorem rxPush_txlog (bs : List Byte) : (rxPush bs s).txlog = s.txlog := rfl
@[simp] theorem rxPush_txReady (bs : List Byte) : (rxPush bs s).txReady = s.txReady := rfl
@[simp] theorem rxPush_program (bs : List Byte) : (rxPush bs s).program = s.program := rfl
@[simp] theorem rxPush_schedule (bs : List Byte) : (rxPush bs s).schedule = s.schedule := rfl
@[simp] theorem rxPush_owner (bs : List Byte) : (rxPush bs s).owner = s.owner := rfl
@[simp] theorem rxPush_answer (bs : List Byte) : (rxPush bs s).answer = s.answer := rfl
@[simp] theorem rxPush_ackWritten (bs : List Byte) : (rxPush bs s).ackWritten = s.ackWritten := rfl
@[simp] theorem rxPush_freeCount (bs : List Byte) : (rxPush bs s).freeCount = s.freeCount := rfl

@[simp] theorem rxPop_cfg : (rxPop s).cfg = s.cfg := rfl
@[simp] theorem rxPop_buf : (rxPop s).buf = s.buf := rfl
@[simp] theorem rxPop_ackBuf : (rxPop s).ackBuf = s.ackBuf := rfl
@[simp] theorem rxPop_flen : (rxPop s).flen = s.flen := rfl
@[simp] theorem rxPop_phase : (rxPop s).phase = s.phase := rfl
@[simp] theorem rxPop_idx : (rxPop s).idx = s.idx := rfl
@[simp] theorem rxPop_exp : (rxPop s).exp = s.exp := rfl
@[simp] theorem rxPop_rspLen : (rxPop s).rspLen = s.rspLen := rfl
@[simp] theorem rxPop_result : (rxPop s).result = s.result := rfl
@[simp] theorem rxPop_rxq : (rxPop s).rxq = s.rxq.tail := rfl
@[simp] theorem rxPop_txlog : (rxPop s).txlog = s.txlog := rfl
@[simp] theorem rxPop_txReady : (rxPop s).txReady = s.txReady := rfl
@[simp] theorem rxPop_program : (rxPop s).program = s.program := rfl
@[simp] theorem rxPop_schedule : (rxPop s).schedule = s.schedule := rfl
@[simp] theorem rxPop_owner : (rxPop s).owner = s.owner := rfl
@[simp] theorem rxPop_answer : (rxPop s).answer = s.answer := rfl
@[simp] theorem rxPop_ackWritten : (rxPop s).ackWritten = s.ackWritten := rfl
@[simp] theorem rxPop_freeCount : (rxPop s).freeCount = s.freeCount := rfl

@[simp] theorem rxFlush_cfg : (rxFlush s).cfg = s.cfg := rfl
@[simp] theorem rxFlush_buf : (rxFlush s).buf = s.buf := rfl
@[simp] theorem rxFlush_ackBuf : (rxFlush s).ackBuf = s.ackBuf := rfl
@[simp] theorem rxFlush_flen : (rxFlush s).flen = s.flen := rfl
@[simp] theorem rxFlush_phase : (rxFlush s).phase = s.phase := rfl
@[simp] theorem rxFlush_idx : (rxFlush s).idx = s.idx := rfl
@[simp] theorem rxFlush_exp : (rxFlush s).exp = s.exp := rfl
@[simp] theorem rxFlush_rspLen : (rxFlush s).rspLen = s.rspLen := rfl
@[simp] theorem rxFlush_result : (rxFlush s).result = s.result := rfl
@[simp] theorem rxFlush_rxq : (rxFlush s).rxq = [] := rfl
@[simp] theorem rxFlush_txlog : (rxFlush s).txlog = s.txlog := rfl
@[simp] theorem rxFlush_txReady : (rxFlush s).txReady = s.txReady := rfl
@[simp] theorem rxFlush_program : (rxFlush s).program = s.program := rfl
@[simp] theorem rxFlush_schedule : (rxFlush s).schedule = s.schedule := rfl
@[simp] theorem rxFlush_owner : (rxFlush s).owner = s.owner := rfl
@[simp] theorem rxFlush_answer : (rxFlush s).answer = s.answer := rfl
@[simp] theorem rxFlush_ackWritten : (rxFlush s).ackWritten = s.ackWritten := rfl
@[simp] theorem rxFlush_freeCount : (rxFlush s).freeCount = s.freeCount := rfl

@[simp] theorem setTxReady_cfg (r : Bool) : (setTxReady r s).cfg = s.cfg := rfl
@[simp] theorem setTxReady_buf (r : Bool) : (setTxReady r s).buf = s.buf := rfl
@[simp] theorem setTxReady_ackBuf (r : Bool) : (setTxReady r s).ackBuf = s.ackBuf := rfl
@[simp] theorem setTxReady_flen (r : Bool) : (setTxReady r s).flen = s.flen := rfl
@[simp] theorem setTxReady_phase (r : Bool) : (setTxReady r s).phase = s.phase := rfl
@[simp] theorem setTxReady_idx (r : Bool) : (setTxReady r s).idx = s.idx := rfl
@[simp] theorem setTxReady_exp (r : Bool) : (setTxReady r s).exp = s.exp := rfl
@[simp] theorem setTxReady_rspLen (r : Bool) : (setTxReady r s).rspLen = s.rspLen := rfl
@[simp] theorem setTxReady_result (r : Bool) : (setTxReady r s).result = s.result := rfl
@[simp] theorem setTxReady_rxq (r : Bool) : (setTxReady r s).rxq = s.rxq := rfl
@[simp] theorem setTxReady_txlog (r : Bool) : (setTxReady r s).txlog = s.txlog := rfl
@[simp] theorem setTxReady_txReady (r : Bool) : (setTxReady r s).txReady = r := rfl
@[simp] theorem setTxReady_program (r : Bool) : (setTxReady r s).program = s.program := rfl
@[simp] theorem setTxReady_schedule (r : Bool) : (setTxReady r s).schedule = s.schedule := rfl
@[simp] theorem setTxReady_owner (r : Bool) : (setTxReady r s).owner = s.owner := rfl
@[simp] theorem setTxReady_answer (r : Bool) : (setTxReady r s).answer = s.answer := rfl
@[simp] theorem setTxReady_ackWritten (r : Bool) : (setTxReady r s).ackWritten = s.ackWritten := rfl
@[simp] theorem setTxReady_freeCount (r : Bool) : (setTxReady r s).freeCount = s.freeCount := rfl

@[simp] theorem storeBuf_cfg (a : Nat) (bs : List Byte) : (storeBuf a bs s).cfg = s.cfg := rfl
@[simp] theorem storeBuf_buf (a : Nat) (bs : List Byte) : (storeBuf a bs s).buf = memWrite s.buf a bs := rfl
@[simp] theorem storeBuf_ackBuf (a : Nat) (bs : List Byte) : (storeBuf a bs s).ackBuf = s.ackBuf := rfl
@[simp] theorem storeBuf_flen (a : Nat) (bs : List Byte) : (storeBuf a bs s).flen = s.flen := rfl
@[simp] theorem storeBuf_phase (a : Nat) (bs : List Byte) : (storeBuf a bs s).phase = s.phase := rfl
@[simp] theorem storeBuf_idx (a : Nat) (bs : List Byte) : (storeBuf a bs s).idx = s.idx := rfl
@[simp] theorem storeBuf_exp (a : Nat) (bs : List Byte) : (storeBuf a bs s).exp = s.exp := rfl
@[simp] theorem storeBuf_rspLen (a : Nat) (bs : List Byte) : (storeBuf a bs s).rspLen = s.rspLen := rfl
@[simp] theorem storeBuf_result (a : Nat) (bs : List Byte) : (storeBuf a bs s).result = s.result := rfl
@[simp] theorem storeBuf_rxq (a : Nat) (bs : List Byte) : (storeBuf a bs s).rxq = s.rxq := rfl
@[simp] theorem storeBuf_txlog (a : Nat) (bs : List Byte) : (storeBuf a bs s).txlog = s.txlog := rfl
@[simp] theorem storeBuf_txReady (a : Nat) (bs : List Byte) : (storeBuf a bs s).txReady = s.txReady := rfl
@[simp] theorem storeBuf_program (a : Nat) (bs : List Byte) : (storeBuf a bs s).program = s.program := rfl
@[simp] theorem storeBuf_schedule (a : Nat) (bs : List Byte) : (storeBuf a bs s).schedule = s.schedule := rfl
@[simp] theorem storeBuf_owner (a : Nat) (bs : List Byte) : (storeBuf a bs s).owner = s.owner := rfl
@[simp] theorem storeBuf_answer (a : Nat) (bs : List Byte) : (storeBuf a bs s).answer = s.answer := rfl
@[simp] theorem storeBuf_ackWritten (a : Nat) (bs : List Byte) :
    (storeBuf a bs s).ackWritten = s.ackWritten := rfl
@[simp] theorem storeBuf_freeCount (a : Nat) (bs : List Byte) :
    (storeBuf a bs s).freeCount = s.freeCount := rfl

@[simp] theorem storeAck_cfg (i : Nat) (b : Byte) : (storeAck i b s).cfg = s.cfg := rfl
@[simp] theorem storeAck_buf (i : Nat) (b : Byte) : (storeAck i b s).buf = s.buf := rfl
@[simp] theorem storeAck_ackBuf (i : Nat) (b : Byte) :
    (storeAck i b s).ackBuf = s.ackBuf.setIfInBounds i b := rfl
@[simp] theorem storeAck_flen (i : Nat) (b : Byte) : (storeAck i b s).flen = s.flen := rfl
@[simp] theorem storeAck_phase (i : Nat) (b : Byte) : (storeAck i b s).phase = s.phase := rfl
@[simp] theorem storeAck_idx (i : Nat) (b : Byte) : (storeAck i b s).idx = s.idx := rfl
@[simp] theorem storeAck_exp (i : Nat) (b : Byte) : (storeAck i b s).exp = s.exp := rfl
@[simp] theorem storeAck_rspLen (i : Nat) (b : Byte) : (storeAck i b s).rspLen = s.rspLen := rfl
@[simp] theorem storeAck_result (i : Nat) (b : Byte) : (storeAck i b s).result = s.result := rfl
@[simp] theorem storeAck_rxq (i : Nat) (b : Byte) : (storeAck i b s).rxq = s.rxq := rfl
@[simp] theorem storeAck_txlog (i : Nat) (b : Byte) : (storeAck i b s).txlog = s.txlog := rfl
@[simp] theorem storeAck_txReady (i : Nat) (b : Byte) : (storeAck i b s).txReady = s.txReady := rfl
@[simp] theorem storeAck_program (i : Nat) (b : Byte) : (storeAck i b s).program = s.program := rfl
@[simp] theorem storeAck_schedule (i : Nat) (b : Byte) : (storeAck i b s).schedule = s.schedule := rfl
@[simp] theorem storeAck_owner (i : Nat) (b : Byte) : (storeAck i b s).owner = s.owner := rfl
@[simp] theorem storeAck_answer (i : Nat) (b : Byte) : (storeAck i b s).answer = s.answer := rfl
@[simp] theorem storeAck_ackWritten (i : Nat) (b : Byte) :
    (storeAck i b s).ackWritten = s.ackWritten.setIfInBounds i true := rfl
@[simp] theorem storeAck_freeCount (i : Nat) (b : Byte) : (storeAck i b s).freeCount = s.freeCount := rfl

@[simp] theorem setRspLen_cfg (n : Nat) : (setRspLen n s).cfg = s.cfg := rfl
@[simp] theorem setRspLen_buf (n : Nat) : (setRspLen n s).buf = s.buf := rfl
@[simp] theorem setRspLen_ackBuf (n : Nat) : (setRspLen n s).ackBuf = s.ackBuf := rfl
@[simp] theorem setRspLen_flen (n : Nat) : (setRspLen n s).flen = s.flen := rfl
@[simp] theorem setRspLen_phase (n : Nat) : (setRspLen n s).phase = s.phase := rfl
@[simp] theorem setRspLen_idx (n : Nat) : (setRspLen n s).idx = s.idx := rfl
@[simp] theorem setRspLen_exp (n : Nat) : (setRspLen n s).exp = s.exp := rfl
@[simp] theorem setRspLen_rspLen (n : Nat) : (setRspLen n s).rspLen = n := rfl
@[simp] theorem setRspLen_result (n : Nat) : (setRspLen n s).result = s.result := rfl
@[simp] theorem setRspLen_rxq (n : Nat) : (setRspLen n s).rxq = s.rxq := rfl
@[simp] theorem setRspLen_txlog (n : Nat) : (setRspLen n s).txlog = s.txlog := rfl
@[simp] theorem setRspLen_txReady (n : Nat) : (setRspLen n s).txReady = s.txReady := rfl
@[simp] theorem setRspLen_program (n : Nat) : (setRspLen n s).program = s.program := rfl
@[simp] theorem setRspLen_schedule (n : Nat) : (setRspLen n s).schedule = s.schedule := rfl
@[simp] theorem setRspLen_owner (n : Nat) : (setRspLen n s).owner = s.owner := rfl
@[simp] theorem setRspLen_answer (n : Nat) : (setRspLen n s).answer = s.answer := rfl
@[simp] theorem setRspLen_ackWritten (n : Nat) : (setRspLen n s).ackWritten = s.ackWritten := rfl
@[simp] theorem setRspLen_freeCount (n : Nat) : (setRspLen n s).freeCount = s.freeCount := rfl

@[simp] theorem nextIdx_cfg : (nextIdx s).cfg = s.cfg := rfl
@[simp] theorem nextIdx_buf : (nextIdx s).buf = s.buf := rfl
@[simp] theorem nextIdx_ackBuf : (nextIdx s).ackBuf = s.ackBuf := rfl
@[simp] theorem nextIdx_flen : (nextIdx s).flen = s.flen := rfl
@[simp] theorem nextIdx_phase : (nextIdx s).phase = s.phase := rfl
@[simp] theorem nextIdx_idx : (nextIdx s).idx = s.idx + 1 := rfl
@[simp] theorem nextIdx_exp : (nextIdx s).exp = s.exp := rfl
@[simp] theorem nextIdx_rspLen : (nextIdx s).rspLen = s.rspLen := rfl
@[simp] theorem nextIdx_result : (nextIdx s).result = s.result := rfl
@[simp] theorem nextIdx_rxq : (nextIdx s).rxq = s.rxq := rfl
@[simp] theorem nextIdx_txlog : (nextIdx s).txlog = s.txlog := rfl
@[simp] theorem nextIdx_txReady : (nextIdx s).txReady = s.txReady := rfl
@[simp] theorem nextIdx_program : (nextIdx s).program = s.program := rfl
@[simp] theorem nextIdx_schedule : (nextIdx s).schedule = s.schedule := rfl
@[simp] theorem nextIdx_owner : (nextIdx s).owner = s.owner := rfl
@[simp] theorem nextIdx_answer : (nextIdx s).answer = s.answer := rfl
@[simp] theorem nextIdx_ackWritten : (nextIdx s).ackWritten = s.ackWritten := rfl
@[simp] theorem nextIdx_freeCount : (nextIdx s).freeCount = s.freeCount := rfl

@[simp] theorem enterPhase_cfg (p : Phase) : (enterPhase p s).cfg = s.cfg := rfl
@[simp] theorem enterPhase_buf (p : Phase) : (enterPhase p s).buf = s.buf := rfl
@[simp] theorem enterPhase_ackBuf (p : Phase) : (enterPhase p s).ackBuf = s.ackBuf := rfl
@[simp] theorem enterPhase_flen (p : Phase) : (enterPhase p s).flen = s.flen := rfl
@[simp] theorem enterPhase_phase (p : Phase) : (enterPhase p s).phase = p := rfl
@[simp] theorem enterPhase_idx (p : Phase) : (enterPhase p s).idx = 0 := rfl
@[simp] theorem enterPhase_exp (p : Phase) : (enterPhase p s).exp = s.exp := rfl
@[simp] theorem enterPhase_rspLen (p : Phase) : (enterPhase p s).rspLen = s.rspLen := rfl
@[simp] theorem enterPhase_result (p : Phase) : (enterPhase p s).result = s.result := rfl
@[simp] theorem enterPhase_rxq (p : Phase) : (enterPhase p s).rxq = s.rxq := rfl
@[simp] theorem enterPhase_txlog (p : Phase) : (enterPhase p s).txlog = s.txlog := rfl
@[simp] theorem enterPhase_txReady (p : Phase) : (enterPhase p s).txReady = s.txReady := rfl
@[simp] theorem enterPhase_program (p : Phase) : (enterPhase p s).program = s.program := rfl
@[simp] theorem enterPhase_schedule (p : Phase) : (enterPhase p s).schedule = s.schedule := rfl
@[simp] theorem enterPhase_owner (p : Phase) : (enterPhase p s).owner = s.owner := rfl
@[simp] theorem enterPhase_answer (p : Phase) : (enterPhase p s).answer = s.answer := rfl
@[simp] theorem enterPhase_ackWritten (p : Phase) : (enterPhase p s).ackWritten = s.ackWritten := rfl
@[simp] theorem enterPhase_freeCount (p : Phase) : (enterPhase p s).freeCount = s.freeCount := rfl

@[simp] theorem complete_cfg (r : ExchangeResult) : (complete r s).cfg = s.cfg := rfl
@[simp] theorem complete_buf (r : ExchangeResult) : (complete r s).buf = s.buf := rfl
@[simp] theorem complete_ackBuf (r : ExchangeResult) : (complete r s).ackBuf = s.ackBuf := rfl
@[simp] theorem complete_flen (r : ExchangeResult) : (complete r s).flen = s.flen := rfl
@[simp] theorem complete_phase (r : ExchangeResult) : (complete r s).phase = .idle := rfl
@[simp] theorem complete_idx (r : ExchangeResult) : (complete r s).idx = 0 := rfl
@[simp] theorem complete_exp (r : ExchangeResult) : (complete r s).exp = s.exp := rfl
@[simp] theorem complete_rspLen (r : ExchangeResult) : (complete r s).rspLen = s.rspLen := rfl
@[simp] theorem complete_result (r : ExchangeResult) : (complete r s).result = r := rfl
@[simp] theorem complete_rxq (r : ExchangeResult) : (complete r s).rxq = s.rxq := rfl
@[simp] theorem complete_txlog (r : ExchangeResult) : (complete r s).txlog = s.txlog := rfl
@[simp] theorem complete_txReady (r : ExchangeResult) : (complete r s).txReady = s.txReady := rfl
@[simp] theorem complete_program (r : ExchangeResult) : (complete r s).program = s.program := rfl
@[simp] theorem complete_schedule (r : ExchangeResult) : (complete r s).schedule = s.schedule := rfl
@[simp] theorem complete_owner (r : ExchangeResult) : (complete r s).owner = s.owner := rfl
@[simp] theorem complete_answer (r : ExchangeResult) : (complete r s).answer = s.answer := rfl
@[simp] theorem complete_ackWritten (r : ExchangeResult) : (complete r s).ackWritten = s.ackWritten := rfl
@[simp] theorem complete_freeCount (r : ExchangeResult) : (complete r s).freeCount = s.freeCount := rfl

@[simp] theorem latchRequest_cfg (c : Caller) (n l : Nat) : (latchRequest c n l s).cfg = s.cfg := rfl
@[simp] theorem latchRequest_buf (c : Caller) (n l : Nat) : (latchRequest c n l s).buf = s.buf := rfl
@[simp] theorem latchRequest_ackBuf (c : Caller) (n l : Nat) : (latchRequest c n l s).ackBuf = s.ackBuf := rfl
@[simp] theorem latchRequest_flen (c : Caller) (n l : Nat) : (latchRequest c n l s).flen = n := rfl
@[simp] theorem latchRequest_phase (c : Caller) (n l : Nat) : (latchRequest c n l s).phase = s.phase := rfl
@[simp] theorem latchRequest_idx (c : Caller) (n l : Nat) : (latchRequest c n l s).idx = s.idx := rfl
@[simp] theorem latchRequest_exp (c : Caller) (n l : Nat) : (latchRequest c n l s).exp = l := rfl
@[simp] theorem latchRequest_rspLen (c : Caller) (n l : Nat) : (latchRequest c n l s).rspLen = 0 := rfl
@[simp] theorem latchRequest_result (c : Caller) (n l : Nat) : (latchRequest c n l s).result = .none := rfl
@[simp] theorem latchRequest_rxq (c : Caller) (n l : Nat) : (latchRequest c n l s).rxq = s.rxq := rfl
@[simp] theorem latchRequest_txlog (c : Caller) (n l : Nat) : (latchRequest c n l s).txlog = s.txlog := rfl
@[simp] theorem latchRequest_txReady (c : Caller) (n l : Nat) :
    (latchRequest c n l s).txReady = s.txReady := rfl
@[simp] theorem latchRequest_program (c : Caller) (n l : Nat) :
    (latchRequest c n l s).program = s.program := rfl
@[simp] theorem latchRequest_schedule (c : Caller) (n l : Nat) :
    (latchRequest c n l s).schedule = s.schedule := rfl
@[simp] theorem latchRequest_owner (c : Caller) (n l : Nat) : (latchRequest c n l s).owner = some c := rfl
@[simp] theorem latchRequest_answer (c : Caller) (n l : Nat) : (latchRequest c n l s).answer = s.answer := rfl
@[simp] theorem latchRequest_ackWritten (c : Caller) (n l : Nat) :
    (latchRequest c n l s).ackWritten = s.ackWritten := rfl
@[simp] theorem latchRequest_freeCount (c : Caller) (n l : Nat) :
    (latchRequest c n l s).freeCount = s.freeCount := rfl

@[simp] theorem resetBlock_cfg : (resetBlock s).cfg = s.cfg := rfl
@[simp] theorem resetBlock_buf : (resetBlock s).buf = [] := rfl
@[simp] theorem resetBlock_ackBuf :
    (resetBlock s).ackBuf = Vector.ofFn fun i => Config.unspecifiedAckByte s.freeCount i.val := rfl
@[simp] theorem resetBlock_flen : (resetBlock s).flen = 0 := rfl
@[simp] theorem resetBlock_phase : (resetBlock s).phase = .idle := rfl
@[simp] theorem resetBlock_idx : (resetBlock s).idx = 0 := rfl
@[simp] theorem resetBlock_exp : (resetBlock s).exp = 0 := rfl
@[simp] theorem resetBlock_rspLen : (resetBlock s).rspLen = 0 := rfl
@[simp] theorem resetBlock_result : (resetBlock s).result = .none := rfl
@[simp] theorem resetBlock_rxq : (resetBlock s).rxq = s.rxq := rfl
@[simp] theorem resetBlock_txlog : (resetBlock s).txlog = s.txlog := rfl
@[simp] theorem resetBlock_txReady : (resetBlock s).txReady = s.txReady := rfl
@[simp] theorem resetBlock_program : (resetBlock s).program = s.program := rfl
@[simp] theorem resetBlock_schedule : (resetBlock s).schedule = s.schedule := rfl
@[simp] theorem resetBlock_owner : (resetBlock s).owner = none := rfl
@[simp] theorem resetBlock_answer : (resetBlock s).answer = s.answer := rfl
@[simp] theorem resetBlock_ackWritten : (resetBlock s).ackWritten = Vector.replicate 6 false := rfl
@[simp] theorem resetBlock_freeCount : (resetBlock s).freeCount = s.freeCount + 1 := rfl

@[simp] theorem releaseResult_cfg : (releaseResult s).cfg = s.cfg := by
  unfold releaseResult; split <;> rfl
@[simp] theorem releaseResult_buf : (releaseResult s).buf = s.buf := by
  unfold releaseResult; split <;> rfl
@[simp] theorem releaseResult_ackBuf : (releaseResult s).ackBuf = s.ackBuf := by
  unfold releaseResult; split <;> rfl
@[simp] theorem releaseResult_flen : (releaseResult s).flen = s.flen := by
  unfold releaseResult; split <;> rfl
@[simp] theorem releaseResult_phase : (releaseResult s).phase = s.phase := by
  unfold releaseResult; split <;> rfl
@[simp] theorem releaseResult_idx : (releaseResult s).idx = s.idx := by
  unfold releaseResult; split <;> rfl
@[simp] theorem releaseResult_exp : (releaseResult s).exp = s.exp := by
  unfold releaseResult; split <;> rfl
@[simp] theorem releaseResult_rspLen : (releaseResult s).rspLen = s.rspLen := by
  unfold releaseResult; split <;> rfl
@[simp] theorem releaseResult_result : (releaseResult s).result = s.result := by
  unfold releaseResult; split <;> rfl
@[simp] theorem releaseResult_rxq : (releaseResult s).rxq = s.rxq := by
  unfold releaseResult; split <;> rfl
@[simp] theorem releaseResult_txlog : (releaseResult s).txlog = s.txlog := by
  unfold releaseResult; split <;> rfl
@[simp] theorem releaseResult_txReady : (releaseResult s).txReady = s.txReady := by
  unfold releaseResult; split <;> rfl
@[simp] theorem releaseResult_program : (releaseResult s).program = s.program := by
  unfold releaseResult; split <;> rfl
@[simp] theorem releaseResult_schedule : (releaseResult s).schedule = s.schedule := by
  unfold releaseResult; split <;> rfl
@[simp] theorem releaseResult_answer : (releaseResult s).answer = s.answer := by
  unfold releaseResult; split <;> rfl
@[simp] theorem releaseResult_ackWritten : (releaseResult s).ackWritten = s.ackWritten := by
  unfold releaseResult; split <;> rfl
@[simp] theorem releaseResult_freeCount : (releaseResult s).freeCount = s.freeCount := by
  unfold releaseResult; split <;> rfl

end Sys2Proof.Machine
end

