-- ==== Sys2Proof/Laws/Ops.lean ====
section
/-! SUPPORT. For each shared operation, one lemma that says everything it can do when it answers a next
state, so that later proofs cite it instead of unfolding the operation. -/

namespace Sys2Proof.Machine

variable {s t : State}

/-- A byte of `BUF` is read where it exists and has a value. -/
theorem bufByte_eq_ok {a : Nat} {b : Byte} :
    bufByte s a = .ok b ↔ a < s.cfg.bufCap ∧ memLookup s.buf a = some b := by
  unfold bufByte
  by_cases hc : s.cfg.bufCap ≤ a
  · simp [hc]
  · cases h : memLookup s.buf a <;> simp [hc]
    omega

/-- A range of `BUF` is read where it lies inside the buffer and each of its bytes has a value. -/
theorem bufBytes_eq_ok {a n : Nat} {bs : List Byte} :
    bufBytes s a n = .ok bs ↔ (n = 0 ∨ a + n ≤ s.cfg.bufCap) ∧ memRead s.buf a n = some bs := by
  induction n generalizing a bs with
  | zero => simp [bufBytes, memRead]
  | succ n ih =>
    rw [bufBytes, memRead]
    cases hb : bufByte s a with
    | error f =>
      simp only [reduceCtorEq, false_iff]
      rintro ⟨hle, hr⟩
      have hlt : a < s.cfg.bufCap := by simp at hle; omega
      cases hm : memLookup s.buf a with
      | none => simp [hm] at hr
      | some b =>
        have := (bufByte_eq_ok (s := s) (a := a) (b := b)).mpr ⟨hlt, hm⟩
        simp [hb] at this
    | ok b =>
      obtain ⟨hlt, hm⟩ := bufByte_eq_ok.mp hb
      simp only [hm]
      cases hr : bufBytes s (a + 1) n with
      | error f =>
        simp only [reduceCtorEq, Option.map_eq_some_iff, false_iff]
        rintro ⟨hle, cs, hc, -⟩
        have hle' : n = 0 ∨ a + 1 + n ≤ s.cfg.bufCap := by simp at hle; omega
        have := (ih (a := a + 1) (bs := cs)).mpr ⟨hle', hc⟩
        simp [hr] at this
      | ok cs =>
        obtain ⟨h1, h2⟩ := ih.mp hr
        simp only [Except.ok.injEq, h2, Option.map_some, Option.some.injEq]
        constructor
        · rintro rfl
          exact ⟨by omega, rfl⟩
        · rintro ⟨-, h⟩
          exact h

/-- A SEND step hands `BUF[IDX]` to the transport and goes on to the next byte, or to `WAIT_ACK` after the
last (R123). -/
theorem sendStep_eq_next : sendStep s = .next t ↔
    ∃ b, bufByte s s.idx = .ok b ∧
      t = if s.idx + 1 < s.flen then nextIdx (txByte b s) else enterPhase .waitAck (txByte b s) := by
  unfold sendStep
  cases hb : bufByte s s.idx with
  | error f => simp
  | ok b => by_cases h : s.idx + 1 < s.flen <;> simp [h, eq_comm]

/-- An acknowledgment-byte step stores the byte; the sixth is followed by the verdict (R125). -/
theorem ackByteStep_eq_next {b : Byte} : ackByteStep b s = .next t ↔
    s.idx < 6 ∧
      t = if s.idx + 1 < 6 then nextIdx (storeAck s.idx b (rxPop s))
        else ackVerdict (storeAck s.idx b (rxPop s)) := by
  unfold ackByteStep
  by_cases h6 : 6 ≤ s.idx
  · simp [h6]
  · have : s.idx < 6 := by omega
    by_cases h : s.idx + 1 < 6 <;> simp [h6, h, this, eq_comm]

/-- The verdict ends the exchange or goes on to the response (R126, R131). -/
theorem ackVerdict_cases (s : State) :
    (isAckFrame s.ackBuf.toList = false ∧ ackVerdict s = complete .ackMismatch s)
    ∨ (isAckFrame s.ackBuf.toList = true ∧ s.exp = 0 ∧ ackVerdict s = complete .ok s)
    ∨ (isAckFrame s.ackBuf.toList = true ∧ s.exp ≠ 0 ∧ ackVerdict s = enterPhase .readRsp s) := by
  unfold ackVerdict
  cases isAckFrame s.ackBuf.toList
  · simp
  · by_cases h : s.exp = 0 <;> simp [h]

/-- A response-byte step stores the byte and counts it; the last one ends the exchange (R128, R129). -/
theorem rspByteStep_eq_next {b : Byte} : rspByteStep b s = .next t ↔
    s.idx < s.cfg.bufCap ∧
      t = if s.idx + 1 < s.exp then nextIdx (setRspLen (s.idx + 1) (storeBuf s.idx [b] (rxPop s)))
        else complete .ok (setRspLen (s.idx + 1) (storeBuf s.idx [b] (rxPop s))) := by
  unfold rspByteStep
  by_cases hc : s.cfg.bufCap ≤ s.idx
  · simp [hc]
  · have : s.idx < s.cfg.bufCap := by omega
    by_cases h : s.idx + 1 < s.exp <;> simp [hc, h, this, eq_comm]

/-- Everything the block's own move can do (R64): nothing, or the one event of its phase. -/
theorem blockStep_eq_next : blockStep s = .next t ↔
    (blockReady s = false ∧ t = s)
    ∨ (s.phase = .send ∧ s.txReady = true ∧ sendStep s = .next t)
    ∨ (s.phase = .waitAck ∧ ∃ b rest, s.rxq = b :: rest ∧ ackByteStep b s = .next t)
    ∨ (s.phase = .readRsp ∧ ∃ b rest, s.rxq = b :: rest ∧ rspByteStep b s = .next t) := by
  unfold blockStep blockReady
  cases hp : s.phase with
  | idle => simp [eq_comm (a := s)]
  | send => cases s.txReady <;> simp [eq_comm (a := s)]
  | waitAck => cases s.rxq <;> simp [eq_comm (a := s)]
  | readRsp => cases s.rxq <;> simp [eq_comm (a := s)]

/-- The block has an own event exactly when a handshake of the transport ports holds (R33, R34). -/
theorem blockReady_eq_handshake : blockReady s = (txValid s && s.txReady || rxReady s && rxValid s) := by
  unfold blockReady txValid rxReady rxValid
  cases s.phase <;> simp

/-- A block that has no event of its own waits. -/
theorem blockStep_waits (h : blockReady s = false) : blockStep s = .next s :=
  blockStep_eq_next.mpr (.inl ⟨h, rfl⟩)

/-- What a SEND step leaves as it is. -/
theorem sendStep_frame (h : sendStep s = .next t) :
    t = { s with txlog := t.txlog, phase := t.phase, idx := t.idx } := by
  obtain ⟨b, _, rfl⟩ := sendStep_eq_next.mp h
  split <;> rfl

/-- What the block's own move leaves as it is: the latched operands, and everything outside the block but
the two streams. -/
theorem blockStep_frame (h : blockStep s = .next t) :
    t = { s with
      buf := t.buf, ackBuf := t.ackBuf, ackWritten := t.ackWritten, phase := t.phase, idx := t.idx
      rspLen := t.rspLen, result := t.result, rxq := t.rxq, txlog := t.txlog } := by
  rcases blockStep_eq_next.mp h with ⟨_, rfl⟩ | ⟨_, _, hs⟩ | ⟨_, b, r, _, hs⟩ | ⟨_, b, r, _, hs⟩
  · rfl
  · rw [sendStep_frame hs]
  · obtain ⟨_, rfl⟩ := ackByteStep_eq_next.mp hs
    split
    · rfl
    · rcases ackVerdict_cases (storeAck s.idx b (rxPop s)) with ⟨_, e⟩ | ⟨_, _, e⟩ | ⟨_, _, e⟩ <;> rw [e] <;> rfl
  · obtain ⟨_, rfl⟩ := rspByteStep_eq_next.mp hs
    split <;> rfl

/-- What a timeout leaves as it is. -/
theorem rxTimeout_frame (s : State) :
    rxTimeout s = { s with
      phase := (rxTimeout s).phase, idx := (rxTimeout s).idx, result := (rxTimeout s).result } := by
  unfold rxTimeout
  split
  · split <;> rfl
  · rfl

/-- A timeout ends the exchange that waits for a byte, or does nothing (R57, R127, R130, R158). -/
theorem rxTimeout_cases (s : State) :
    (s.cfg.transportMayTimeOut = true ∧ s.rxq = [] ∧ s.phase = .waitAck ∧ rxTimeout s = complete .ackTimeout s)
    ∨ (s.cfg.transportMayTimeOut = true ∧ s.rxq = [] ∧ s.phase = .readRsp
        ∧ rxTimeout s = complete .rspTimeout s)
    ∨ ((s.cfg.transportMayTimeOut = false ∨ s.rxq ≠ [] ∨ s.phase = .idle ∨ s.phase = .send)
        ∧ rxTimeout s = s) := by
  unfold rxTimeout
  cases s.cfg.transportMayTimeOut
  · simp
  · cases s.rxq with
    | nil => cases s.phase <;> simp
    | cons => simp

/-- Everything a request at the command port can do: wait, or be accepted (R31, R122). -/
theorem requestExchange_eq_next {caller : Caller} {code : Byte} {params : List Byte} {explen : Nat} :
    requestExchange caller code params explen s = .next t ↔
      (s.owner = none ∨ s.owner = some caller) ∧
        ((s.phase ≠ .idle ∧ t = s)
        ∨ (s.phase = .idle ∧ 9 + params.length ≤ s.cfg.bufCap ∧ explen ≤ s.cfg.bufCap
            ∧ t = retire (accept caller code params explen s))) := by
  have hh : heldByOther s caller = false ↔ s.owner = none ∨ s.owner = some caller := by
    unfold heldByOther
    cases s.owner <;> simp
  unfold requestExchange
  rw [← hh]
  cases heldByOther s caller
  · by_cases hp : s.phase = .idle
    · by_cases h1 : 9 + params.length ≤ s.cfg.bufCap
      · by_cases h2 : explen ≤ s.cfg.bufCap <;> simp [busy, commandFits, responseFits, rspMax, hp, h1, h2, eq_comm]
      · simp [busy, commandFits, hp, h1]
    · simp [busy, hp, eq_comm]
  · simp

/-- A read of the result port hands over a value and changes nothing else (R32, R142). -/
theorem readPort_eq_next {p : PortSelect} (h : readPort p s = .next t) : ∃ a, t = give a s := by
  unfold readPort at h
  split at h
  all_goals try (exact ⟨_, (Host.Outcome.next.inj h).symm⟩)
  · split at h
    · cases h
    · exact ⟨_, (Host.Outcome.next.inj h).symm⟩
  · split at h
    · cases h
    · split at h
      · cases h
      · split at h
        · cases h
        · exact ⟨_, (Host.Outcome.next.inj h).symm⟩
  · split at h
    · cases h
    · exact ⟨_, (Host.Outcome.next.inj h).symm⟩
  · split at h
    · cases h
    · exact ⟨_, (Host.Outcome.next.inj h).symm⟩

/-- Everything a move other than the host's program can do. -/
theorem moveEffect_eq_next {m : Move} (h : moveEffect m s = .next t) :
    (m = .host ∧ t = s) ∨ (m = .block ∧ blockStep s = .next t) ∨ (∃ b, m = .devPush b ∧ t = rxPush [b] s)
    ∨ (m = .rxTimeout ∧ t = rxTimeout s) ∨ (∃ r, m = .txReady r ∧ t = setTxReady r s)
    ∨ (∃ p a, m = .read p ∧ t = give a s) ∨ (m = .release ∧ t = releaseResult s)
    ∨ (m = .reset ∧ t = resetBlock s) := by
  cases m with
  | read p =>
    obtain ⟨a, rfl⟩ := readPort_eq_next h
    exact .inr (.inr (.inr (.inr (.inr (.inl ⟨p, a, rfl, rfl⟩)))))
  | host | block | devPush | rxTimeout | txReady | release | reset => simp_all [moveEffect, eq_comm]

/-- Some SEND steps in a row: each is a SEND step from the one before. -/
theorem sendSteps_succ_eq_next {n : Nat} :
    sendSteps (n + 1) s = .next t ↔ ∃ u, sendStep s = .next u ∧ sendSteps n u = .next t := by
  rw [sendSteps]
  cases sendStep s <;> simp

/-- What some SEND steps in a row leave as it is. -/
theorem sendSteps_frame {n : Nat} (h : sendSteps n s = .next t) :
    t = { s with txlog := t.txlog, phase := t.phase, idx := t.idx } := by
  induction n generalizing s with
  | zero => cases h; rfl
  | succ n ih =>
    obtain ⟨u, hu, ht⟩ := sendSteps_succ_eq_next.mp h
    have e := ih ht
    rw [sendStep_frame hu] at e
    exact e

/-- An instruction that is a caller's request is that caller's exchange of some command (R31, R87). -/
theorem exec_of_requester {i : Instr} {caller : Caller} (h : requester i = some caller) :
    ∃ code params explen, ∀ s, exec i s = requestExchange caller code params explen s := by
  cases i with
  | execute c code params explen => cases h; exact ⟨_, _, _, fun _ => rfl⟩
  | firmwareVersionQuery c params explen => cases h; exact ⟨_, _, _, fun _ => rfl⟩
  | securityModuleConfiguration c params explen => cases h; exact ⟨_, _, _, fun _ => rfl⟩
  | rfRetryConfiguration c params explen => cases h; exact ⟨_, _, _, fun _ => rfl⟩
  | passiveTargetListing c params explen => cases h; exact ⟨_, _, _, fun _ => rfl⟩
  | dataExchange c params explen => cases h; exact ⟨_, _, _, fun _ => rfl⟩
  | cmdFrame | ackFrame | rspFrame | encode | isAck | strip | wellFormed | reset => cases h

/-- What an instruction that is no request and no reset leaves as it is. -/
theorem exec_frame {i : Instr} (hr : requester i = none) (hi : i ≠ .reset) (h : exec i s = .next t) :
    t = { s with
      phase := t.phase, idx := t.idx, rxq := t.rxq, txlog := t.txlog, program := t.program
      answer := t.answer } := by
  cases i with
  | cmdFrame code params =>
    simp only [exec, execCmdFrame] at h
    split at h
    · split at h
      · next u hu =>
        rw [sendSteps_frame hu] at h
        cases h; rfl
      · cases h
      · cases h
    · cases h; rfl
  | ackFrame => cases h; rfl
  | rspFrame => cases h; rfl
  | encode =>
    simp only [exec, execEncode] at h
    split at h <;> cases h; rfl
  | isAck => cases h; rfl
  | strip =>
    simp only [exec, execStrip] at h
    split at h <;> cases h; rfl
  | wellFormed => cases h; rfl
  | reset => exact absurd rfl hi
  | execute | firmwareVersionQuery | securityModuleConfiguration | rfRetryConfiguration
  | passiveTargetListing | dataExchange => cases hr

/-- Everything an instruction can do when it answers a next state. -/
theorem exec_eq_next {i : Instr} (h : exec i s = .next t) :
    (∃ code params, i = .cmdFrame code params ∧
      ((sendingFrame code params s = false ∧ t = s)
      ∨ (sendingFrame code params s = true ∧ ∃ u, sendSteps (s.flen - s.idx) s = .next u ∧ t = retire u)))
    ∨ (∃ bs, (i = .ackFrame ∨ ∃ x y z, i = .rspFrame x y z) ∧ t = retire (rxPush bs s))
    ∨ (∃ a, ((∃ c ps, i = .encode c ps) ∨ (∃ bs, i = .isAck bs) ∨ (∃ bs, i = .strip bs)
        ∨ (∃ bs d, i = .wellFormed bs d)) ∧ t = retire (give a s))
    ∨ (∃ caller code params explen, requestExchange caller code params explen s = .next t)
    ∨ (i = .reset ∧ t = retire (resetBlock s)) := by
  cases i with
  | cmdFrame code params =>
    refine .inl ⟨code, params, rfl, ?_⟩
    simp only [exec, execCmdFrame] at h
    split at h
    · next hs =>
      refine .inr ⟨hs, ?_⟩
      cases hu : sendSteps (s.flen - s.idx) s with
      | next u => rw [hu] at h; exact ⟨u, rfl, (Host.Outcome.next.inj h).symm⟩
      | fault f => rw [hu] at h; cases h
      | refused r => rw [hu] at h; cases h
    · next hs => exact .inl ⟨by simpa using hs, (Host.Outcome.next.inj h).symm⟩
  | ackFrame => exact .inr (.inl ⟨_, .inl rfl, (Host.Outcome.next.inj h).symm⟩)
  | rspFrame x y z => exact .inr (.inl ⟨_, .inr ⟨x, y, z, rfl⟩, (Host.Outcome.next.inj h).symm⟩)
  | encode c ps =>
    refine .inr (.inr (.inl ?_))
    simp only [exec, execEncode] at h
    split at h
    · cases h
    · exact ⟨_, .inl ⟨c, ps, rfl⟩, (Host.Outcome.next.inj h).symm⟩
  | isAck bs => exact .inr (.inr (.inl ⟨_, .inr (.inl ⟨bs, rfl⟩), (Host.Outcome.next.inj h).symm⟩))
  | strip bs =>
    refine .inr (.inr (.inl ?_))
    simp only [exec, execStrip] at h
    split at h
    · cases h
    · exact ⟨_, .inr (.inr (.inl ⟨bs, rfl⟩)), (Host.Outcome.next.inj h).symm⟩
  | wellFormed bs d =>
    exact .inr (.inr (.inl ⟨_, .inr (.inr (.inr ⟨bs, d, rfl⟩)), (Host.Outcome.next.inj h).symm⟩))
  | reset => exact .inr (.inr (.inr (.inr ⟨rfl, (Host.Outcome.next.inj h).symm⟩)))
  | execute | firmwareVersionQuery | securityModuleConfiguration | rfRetryConfiguration
  | passiveTargetListing | dataExchange => exact .inr (.inr (.inr (.inl ⟨_, _, _, _, h⟩)))

/-- Everything a step can do when it answers a next state: a move of an agent, or the host's next line. -/
theorem step_eq_next (h : step s = .next t) :
    (nextMove s ≠ .host ∧ moveEffect (nextMove s) (dropMove s) = .next t)
    ∨ (nextMove s = .host ∧ s.program = [] ∧ t = dropMove s)
    ∨ (nextMove s = .host ∧ ∃ l rest i, s.program = l :: rest ∧ decode l = .ok i
        ∧ exec i (dropMove s) = .next t) := by
  unfold step at h
  cases hm : nextMove s with
  | host =>
    rw [hm] at h
    simp only [hostStep, fetch, dropMove_program] at h
    cases hp : s.program with
    | nil => simp [hp] at h; simp [h]
    | cons l rest =>
      cases hd : decode l with
      | error e => simp [hp, hd] at h
      | ok i => simp [hp, hd] at h; simp [hd, h]
  | block | devPush | rxTimeout | txReady | read | release | reset =>
    rw [hm] at h
    exact .inl ⟨by simp, h⟩

end Sys2Proof.Machine
end

