-- ==== Sys2Proof/Laws/PerInstr.lean ====
section
/-! SUPPORT. Facts about every instruction as syntax, one lemma per constructor. The family
`EncodedLength`: a well-formed instruction's line carries as many bytes as the spec gives its row. -/

namespace Sys2Proof.Laws

/-- The bytes a line carries. -/
def lineLength : Line → Nat
  | .txWire bs => bs.length
  | .rxWire bs => bs.length
  | .encodeCall payload => payload.length
  | .isAckCall bs => bs.length
  | .stripCall bs => bs.length
  | .wellFormedCall bs _ => bs.length
  | .command _ payload _ => payload.length
  | .namedCommand _ payload _ => payload.length
  | .resetPort => 0

/-- The length the spec gives the row: `9 + p`, 6 and `8 + m` for the frames (R70), `1 + p` for a payload
(R82), the operand's own length elsewhere. -/
def rowLength : Instr → Nat
  | .cmdFrame _ params => 9 + params.length
  | .ackFrame => 6
  | .rspFrame _ payload _ => 8 + payload.length
  | .encode _ params => 1 + params.length
  | .isAck bs => bs.length
  | .strip bs => bs.length
  | .wellFormed bs _ => bs.length
  | .execute _ _ params _ => 1 + params.length
  | .reset => 0
  | .firmwareVersionQuery _ params _ => 1 + params.length
  | .securityModuleConfiguration _ params _ => 1 + params.length
  | .rfRetryConfiguration _ params _ => 1 + params.length
  | .passiveTargetListing _ params _ => 1 + params.length
  | .dataExchange _ params _ => 1 + params.length

/-- The line of a well-formed instruction has its row's length. -/
def EncodedLength.Statement (i : Instr) : Prop := i.wf = true → lineLength (encode i) = rowLength i

theorem EncodedLength.cmdFrame (code : Byte) (params : List Byte) :
    EncodedLength.Statement (.cmdFrame code params) := fun _ => Machine.encodeFrame_length code params

theorem EncodedLength.ackFrame : EncodedLength.Statement .ackFrame := fun _ => rfl

theorem EncodedLength.rspFrame (header payload trailer : List Byte) :
    EncodedLength.Statement (.rspFrame header payload trailer) := by
  intro h
  simp only [Instr.wf, Bool.and_eq_true, decide_eq_true_eq] at h
  simp only [encode, lineLength, rowLength, List.length_append]
  omega

theorem EncodedLength.encode (code : Byte) (params : List Byte) :
    EncodedLength.Statement (.encode code params) := fun _ => Nat.add_comm _ _

theorem EncodedLength.isAck (bs : List Byte) : EncodedLength.Statement (.isAck bs) := fun _ => rfl

theorem EncodedLength.strip (bs : List Byte) : EncodedLength.Statement (.strip bs) := fun _ => rfl

theorem EncodedLength.wellFormed (bs : List Byte) (dir : Byte) :
    EncodedLength.Statement (.wellFormed bs dir) := fun _ => rfl

theorem EncodedLength.execute (caller : Caller) (code : Byte) (params : List Byte) (explen : Nat) :
    EncodedLength.Statement (.execute caller code params explen) := fun _ => Nat.add_comm _ _

theorem EncodedLength.reset : EncodedLength.Statement .reset := fun _ => rfl

theorem EncodedLength.firmwareVersionQuery (caller : Caller) (params : List Byte) (explen : Nat) :
    EncodedLength.Statement (.firmwareVersionQuery caller params explen) := fun _ => Nat.add_comm _ _

theorem EncodedLength.securityModuleConfiguration (caller : Caller) (params : List Byte) (explen : Nat) :
    EncodedLength.Statement (.securityModuleConfiguration caller params explen) := fun _ => Nat.add_comm _ _

theorem EncodedLength.rfRetryConfiguration (caller : Caller) (params : List Byte) (explen : Nat) :
    EncodedLength.Statement (.rfRetryConfiguration caller params explen) := fun _ => Nat.add_comm _ _

theorem EncodedLength.passiveTargetListing (caller : Caller) (params : List Byte) (explen : Nat) :
    EncodedLength.Statement (.passiveTargetListing caller params explen) := fun _ => Nat.add_comm _ _

theorem EncodedLength.dataExchange (caller : Caller) (params : List Byte) (explen : Nat) :
    EncodedLength.Statement (.dataExchange caller params explen) := fun _ => Nat.add_comm _ _

end Sys2Proof.Laws
end

