-- ==== Sys2Proof/Laws/Run.lean ====
section
/-! SUPPORT. Runs of several steps. -/

namespace Sys2Proof.Machine

theorem run_of_next {M : Host.Core} {s t : M.State} (n : Nat) (h : M.step s = .next t) :
    M.run (n + 1) s = M.run n t := by simp only [Host.Core.run, h]

theorem run_of_fault {M : Host.Core} {s : M.State} {f : M.Fault} (n : Nat) (h : M.step s = .fault f) :
    M.run (n + 1) s = .fault f := by simp only [Host.Core.run, h]

theorem run_of_refused {M : Host.Core} {s : M.State} {r : M.Refusal} (n : Nat) (h : M.step s = .refused r) :
    M.run (n + 1) s = .refused r := by simp only [Host.Core.run, h]

/-- `runSteps` is the host's run of the machine. -/
theorem runSteps_eq_core_run (n : Nat) (s : State) : runSteps n s = Host.Core.run core n s := by
  induction n generalizing s with
  | zero => rfl
  | succ n ih =>
    rw [runSteps]
    cases h : step s with
    | next t => exact (ih t).trans (run_of_next (M := core) n h).symm
    | fault f => exact (run_of_fault (M := core) n h).symm
    | refused r => exact (run_of_refused (M := core) n h).symm

/-- A run is a run of its first part followed by a run of the rest. -/
theorem runSteps_add {m n : Nat} {s t : State} (h : runSteps m s = .next t) :
    runSteps (m + n) s = runSteps n t := by
  induction m generalizing s with
  | zero =>
    cases h
    rw [Nat.zero_add]
  | succ m ih =>
    rw [runSteps] at h
    rw [Nat.add_right_comm, runSteps]
    cases hs : step s with
    | next u => rw [hs] at h; exact ih h
    | fault f => rw [hs] at h; cases h
    | refused r => rw [hs] at h; cases h

/-- The bytes pushed in two parts of a run. -/
theorem pushedBytes_append (xs ys : List Move) : pushedBytes (xs ++ ys) = pushedBytes xs ++ pushedBytes ys := by
  induction xs with
  | nil => rfl
  | cons m xs ih => cases m <;> simp [pushedBytes, ih]

/-- A list of moves is its first part followed by the rest. -/
theorem runMoves_append {xs ys : List Move} {s t : State} (h : runMoves xs s = .next t) :
    runMoves (xs ++ ys) s = runMoves ys t := by
  induction xs generalizing s with
  | nil => cases h; rfl
  | cons m ms ih =>
    rw [runMoves] at h
    rw [List.cons_append, runMoves]
    cases hm : moveEffect m s with
    | next u => rw [hm] at h; exact ih h
    | fault f => rw [hm] at h; cases h
    | refused r => rw [hm] at h; cases h

end Sys2Proof.Machine
end

