-- ==== Sys2Proof/Tests/Slice0.lean ====
section
/-! SUPPORT. The model's own tests. Expected values come from the spec's vectors (95_test_vectors.md), whose
name stands in each docstring, or are worked out by hand from the rule named there. The theorems named
`test_witness_…` show for each statement with hypotheses a state and operands that meet them together. -/

namespace Sys2Proof.Tests

open Sys2Proof Sys2Proof.Machine

/-- The next state, if there is one. -/
def next? : Result → Option State
  | .next s => some s
  | .fault _ => none
  | .refused _ => none

/-- The reason of a refusal, if it is one. -/
def refusal? : Result → Option Refusal
  | .next _ => none
  | .fault _ => none
  | .refused r => some r

/-- The answer handed over by an instruction, if it goes on. -/
def answer? (r : Result) : Option Answer := (next? r).map (·.answer)

/-- Bytes of a buffer from index `a` on. -/
def bufferAt : Nat → List Byte → Memory
  | _, [] => []
  | a, b :: bs => (a, b) :: bufferAt (a + 1) bs

/-! ### Frames of the spec's vectors -/

/-- E1. -/
def e1 : List Byte := [0x00, 0x00, 0xFF, 0x02, 0xFE, 0xD4, 0x02, 0x2A, 0x00]

/-- E2. -/
def e2 : List Byte := [0x00, 0x00, 0xFF, 0x05, 0xFB, 0xD4, 0x14, 0x01, 0x14, 0x01, 0x02, 0x00]

/-- T1's response. -/
def t1 : List Byte := [0x00, 0x00, 0xFF, 0x06, 0xFA, 0xD5, 0x03, 0x32, 0x01, 0x06, 0x07, 0xE8, 0x00]

/-- T3's response, with an empty payload. -/
def t3 : List Byte := [0x00, 0x00, 0xFF, 0x01, 0xFF, 0xD5, 0x2B, 0x00]

/-! ### Small states -/

/-- Idle, with the two stale bytes of the X vectors. -/
def idleState : State := { State.reset with rxq := [0x5A, 0x5A] }

/-- X1 after its ACCEPT and `idx` SEND steps. -/
def sendingAt (idx : Nat) : State :=
  { State.reset with
    buf := bufferAt 0 e1, flen := 9, phase := .send, idx := idx, exp := 13, owner := some .first
    txlog := e1.take idx }

/-- X1 with five right acknowledgment bytes taken, the queue as given. -/
def ackAt5 (rxq : List Byte) : State :=
  { State.reset with
    buf := bufferAt 0 e1, flen := 9, phase := .waitAck, idx := 5, exp := 13, owner := some .first
    txlog := e1, rxq := rxq
    ackBuf := #v[0x00, 0x00, 0xFF, 0x00, 0xFF, 0x00]
    ackWritten := #v[true, true, true, true, true, false] }

/-- An exchange with `exp` bytes declared and the bytes `bs` of the response stored, the queue as given. -/
def readingAt (bs : List Byte) (exp : Nat) (rxq : List Byte) : State :=
  { State.reset with
    buf := bufferAt 0 bs, flen := 9, phase := .readRsp, idx := bs.length, exp := exp, rspLen := bs.length
    owner := some .first, txlog := e1, rxq := rxq
    ackBuf := #v[0x00, 0x00, 0xFF, 0x00, 0xFF, 0x00]
    ackWritten := Vector.replicate 6 true }

/-- The end of an exchange with the response `bs` of `exp` declared bytes. -/
def doneWith (r : ExchangeResult) (bs : List Byte) (exp : Nat) : State :=
  { readingAt bs exp [] with phase := .idle, idx := 0, result := r }

/-! ### WellFormed: each check refuses an ill-formed term -/

theorem test_wf_rejects_254_parameters : (Instr.cmdFrame 0x40 (List.replicate 254 0x00)).wf = false := by
  simp only [Instr.wf, List.length_replicate]; decide

theorem test_wf_rejects_short_header : (Instr.rspFrame [0x00, 0x00, 0xFF, 0x01, 0xFF] [] [0x2B, 0x00]).wf =
    false := by decide

theorem test_wf_rejects_long_trailer : (Instr.rspFrame [0x00, 0x00, 0xFF, 0x01, 0xFF, 0xD5] []
    [0x2B, 0x00, 0x00]).wf = false := by decide

/-! ### Decode: a written-out word for each constructor -/

/-- E1, as a line. -/
theorem test_decode_cmdFrame : decode (.txWire [0x00, 0x00, 0xFF, 0x02, 0xFE, 0xD4, 0x02, 0x2A, 0x00]) =
    .ok (.cmdFrame 0x02 []) := rfl

/-- E4, with four parameters. -/
theorem test_decode_cmdFrame_parameters :
    decode (.txWire [0x00, 0x00, 0xFF, 0x06, 0xFA, 0xD4, 0x32, 0x05, 0xFF, 0x01, 0xFF, 0xF6, 0x00]) =
      .ok (.cmdFrame 0x32 [0x05, 0xFF, 0x01, 0xFF]) := rfl

/-- E1 as a table word: its nine bytes, byte 0 least significant. -/
theorem test_table_word_cmdFrame : decodeTableWord 72 0x002A02D4FE02FF0000 = some (.cmdFrame 0x02 []) := by
  decide

/-- R77. -/
theorem test_decode_ackFrame : decode (.rxWire [0x00, 0x00, 0xFF, 0x00, 0xFF, 0x00]) = .ok .ackFrame := rfl

/-- R77 as a table word, byte 0 least significant. -/
theorem test_table_word_ackFrame : decodeTableWord 48 0x00FF00FF0000 = some .ackFrame := by decide

/-- T1. -/
theorem test_decode_rspFrame :
    decode (.rxWire [0x00, 0x00, 0xFF, 0x06, 0xFA, 0xD5, 0x03, 0x32, 0x01, 0x06, 0x07, 0xE8, 0x00]) =
      .ok (.rspFrame [0x00, 0x00, 0xFF, 0x06, 0xFA, 0xD5] [0x03, 0x32, 0x01, 0x06, 0x07] [0xE8, 0x00]) := rfl

/-- T3 as a table word: an eight-byte response. -/
theorem test_table_word_rspFrame : decodeTableWord 64 0x002BD5FF01FF0000 =
    some (.rspFrame [0x00, 0x00, 0xFF, 0x01, 0xFF, 0xD5] [] [0x2B, 0x00]) := by decide

theorem test_decode_encode : decode (.encodeCall [0x4A, 0x01, 0x00]) = .ok (.encode 0x4A [0x01, 0x00]) := rfl

theorem test_decode_isAck : decode (.isAckCall [0x55]) = .ok (.isAck [0x55]) := rfl

theorem test_decode_strip : decode (.stripCall t3) = .ok (.strip t3) := rfl

theorem test_decode_wellFormed : decode (.wellFormedCall t3 0xD5) = .ok (.wellFormed t3 0xD5) := rfl

/-- `EXECUTE 4A [01 00] L=19` (P2). -/
theorem test_decode_execute : decode (.command .first [0x4A, 0x01, 0x00] 19) =
    .ok (.execute .first 0x4A [0x01, 0x00] 19) := rfl

theorem test_decode_reset : decode .resetPort = .ok .reset := rfl

/-- The five payload codes of R87, as the opcode table's `fixed` byte. -/
theorem test_table_words_payload_codes :
    decodeTableWord 8 0x02 = some (.firmwareVersionQuery .first [] 0) ∧
    decodeTableWord 8 0x14 = some (.securityModuleConfiguration .first [] 0) ∧
    decodeTableWord 8 0x32 = some (.rfRetryConfiguration .first [] 0) ∧
    decodeTableWord 8 0x4A = some (.passiveTargetListing .first [] 0) ∧
    decodeTableWord 8 0x40 = some (.dataExchange .first [] 0) := by decide

/-- A code that R87's table does not list is sent all the same (R157). -/
theorem test_decode_unlisted_code : decode (.namedCommand .first [0x2C, 0x01] 9) =
    .ok (.execute .first 0x2C [0x01] 9) := rfl

/-! ### Decode: each rejection by name -/

theorem test_decode_rejects_no_code : decode (.command .first [] 9) = .error .noCodeByte := rfl

theorem test_decode_rejects_short : decode (.txWire [0x00, 0x00, 0xFF, 0x01, 0xFF, 0xD4, 0x2C, 0x00]) =
    .error .frameTooShort := rfl

/-- W10's start sequence, in a command frame. -/
theorem test_decode_rejects_start : decode (.txWire [0x00, 0x01, 0xFF, 0x02, 0xFE, 0xD4, 0x02, 0x2A, 0x00]) =
    .error .notStartSequence := rfl

theorem test_decode_rejects_direction :
    decode (.txWire [0x00, 0x00, 0xFF, 0x02, 0xFE, 0xD5, 0x02, 0x29, 0x00]) = .error .wrongDirection := rfl

theorem test_decode_rejects_postamble :
    decode (.txWire [0x00, 0x00, 0xFF, 0x02, 0xFE, 0xD4, 0x02, 0x2A, 0x01]) = .error .notPostamble := rfl

theorem test_decode_rejects_length :
    decode (.txWire [0x00, 0x00, 0xFF, 0x03, 0xFD, 0xD4, 0x02, 0x2A, 0x00]) = .error .lengthMismatch := rfl

theorem test_decode_rejects_length_checksum :
    decode (.txWire [0x00, 0x00, 0xFF, 0x02, 0xFF, 0xD4, 0x02, 0x2A, 0x00]) = .error .lengthChecksum := rfl

theorem test_decode_rejects_data_checksum :
    decode (.txWire [0x00, 0x00, 0xFF, 0x02, 0xFE, 0xD4, 0x02, 0x2B, 0x00]) = .error .dataChecksum := rfl

/-- The family's NACK is no frame of the block (R85). -/
theorem test_decode_rejects_nack : decode (.rxWire [0x00, 0x00, 0xFF, 0xFF, 0x00, 0x00]) =
    .error .noDeviceFrame := rfl

/-! ### The codec's vectors -/

/-- E2: a payload that holds its own code. -/
theorem test_encode_e2 : encodeFrame 0x14 [0x01, 0x14, 0x01] = e2 := by decide

/-- E4: the sum passes 256 three times. -/
theorem test_encode_e4 : encodeFrame 0x32 [0x05, 0xFF, 0x01, 0xFF] =
    [0x00, 0x00, 0xFF, 0x06, 0xFA, 0xD4, 0x32, 0x05, 0xFF, 0x01, 0xFF, 0xF6, 0x00] := by decide

/-- E9, E10, E11: the data checksum at 00, FF and 01. -/
theorem test_encode_checksum_edges :
    encodeFrame 0x2C [] = [0x00, 0x00, 0xFF, 0x02, 0xFE, 0xD4, 0x2C, 0x00, 0x00] ∧
    encodeFrame 0x2D [] = [0x00, 0x00, 0xFF, 0x02, 0xFE, 0xD4, 0x2D, 0xFF, 0x00] ∧
    encodeFrame 0x2B [] = [0x00, 0x00, 0xFF, 0x02, 0xFE, 0xD4, 0x2B, 0x01, 0x00] := by decide

/-- E13: a payload equal to the acknowledgment is sent as it is. -/
theorem test_encode_e13 : encodeFrame 0x00 [0x00, 0xFF, 0x00, 0xFF, 0x00] =
    [0x00, 0x00, 0xFF, 0x07, 0xF9, 0xD4, 0x00, 0x00, 0xFF, 0x00, 0xFF, 0x00, 0x2E, 0x00] := by decide

/-- E16: 55 parameters, the largest frame of the reference system. -/
theorem test_encode_e16 : encodeFrame 0x40 (List.replicate 55 0xAA) =
    [0x00, 0x00, 0xFF, 0x39, 0xC7, 0xD4, 0x40] ++ List.replicate 55 0xAA ++ [0x66, 0x00] := by decide

/-- The table of `neg8` (vectors 2.2). -/
theorem test_neg8_table : [0x00, 0x01, 0x02, 0x05, 0x0F, 0x39, 0x80, 0xFF].map neg8 =
    [0x00, 0xFF, 0xFE, 0xFB, 0xF1, 0xC7, 0x80, 0x01] := by decide

/-- S4: the Frame value of E3. -/
theorem test_frameValue_s4 : frameValue (payloadOf 0x4A [0x01, 0x00]) =
    { length := 4, payload := [0x4A, 0x01, 0x00] } := by decide

/-- A2 to A11, none of them an acknowledgment. -/
theorem test_isAck_false : ([[0x00, 0x00, 0xFF, 0xFF, 0x00, 0x00], [0x01, 0x00, 0xFF, 0x00, 0xFF, 0x00],
    [0x00, 0x00, 0xFF, 0x00, 0xFF, 0x01], [0x00, 0x00, 0xFE, 0x00, 0xFF, 0x00],
    [0x55, 0x00, 0x00, 0xFF, 0x00, 0xFF], [0x00, 0x00, 0xFF, 0x00, 0xFF],
    [0x00, 0x00, 0xFF, 0x00, 0xFF, 0x00, 0x00], [0x00, 0x00, 0xFF, 0x02, 0xFE, 0xD4], [],
    [0x00, 0x00, 0xFF, 0x00, 0x00, 0xFF]].map isAckFrame).all (· == false) = true := by decide

/-- T1, T3, T5, T6. -/
theorem test_strip_vectors :
    stripFrame t1 = some [0x03, 0x32, 0x01, 0x06, 0x07] ∧ stripFrame t3 = some [] ∧
    stripFrame [0x11, 0x22, 0x33, 0x44, 0x55, 0x66, 0x77, 0x88, 0x99, 0xAA] = some [0x77, 0x88] ∧
    stripFrame (t1.take 10) = some [0x03, 0x32] := by decide

/-- W3, W4, W5, W6, W7, W9: not well-formed. -/
theorem test_wellFormed_false :
    frameWellFormed t1 0xD4 = false ∧ frameWellFormed (t1.set 11 0xE9) 0xD5 = false ∧
    frameWellFormed (t1.set 4 0xFB) 0xD5 = false ∧
    frameWellFormed ((t1.set 3 0x05).set 4 0xFB) 0xD5 = false ∧
    frameWellFormed [0x00, 0x00, 0xFF, 0x00, 0xFF, 0x00] 0xD4 = false ∧
    frameWellFormed (t1.set 12 0x01) 0xD5 = false := by decide

/-- X4, X5, X6, X7, X9, X10 of the exchange as one function. -/
theorem test_exchange_vectors :
    (exchange 13 [0x11, 0x22, 0x33]).outcome = .ackTimeout ∧
    (exchange 13 [0x00, 0x00, 0xFF, 0xFF, 0x00, 0x00]).outcome = .ackMismatch ∧
    exchange 13 (0x55 :: ackConst ++ t1) =
      { outcome := .ackMismatch, rsp := [], left := [0x00, 0x00, 0x00, 0xFF, 0x06, 0xFA, 0xD5, 0x03, 0x32,
        0x01, 0x06, 0x07, 0xE8, 0x00] } ∧
    exchange 13 (ackConst ++ t1.take 5) =
      { outcome := .rspTimeout, rsp := [0x00, 0x00, 0xFF, 0x06, 0xFA], left := [] } ∧
    exchange 0 ackConst = { outcome := .ok, rsp := [], left := [] } ∧
    exchange 10 (ackConst ++ t1) =
      { outcome := .ok, rsp := [0x00, 0x00, 0xFF, 0x06, 0xFA, 0xD5, 0x03, 0x32, 0x01, 0x06],
        left := [0x07, 0xE8, 0x00] } := by decide

/-! ### One step of each instruction -/

/-- E1 crosses the wire from its fifth byte on; the block then waits for the acknowledgment. -/
theorem test_cmdFrame_sends_the_rest : (next? (exec (.cmdFrame 0x02 []) (sendingAt 4))).map
    (fun t => (t.txlog, t.phase, t.idx)) = some (e1, .waitAck, 0) := by decide

/-- A block that sends another frame does not send this one (R86): the line waits. -/
theorem test_cmdFrame_waits : (next? (exec (.cmdFrame 0x03 []) (sendingAt 0))).map (·.txlog) = some [] := by
  decide

theorem test_ackFrame_enters_queue : (next? (exec .ackFrame idleState)).map (·.rxq) =
    some [0x5A, 0x5A, 0x00, 0x00, 0xFF, 0x00, 0xFF, 0x00] := by decide

theorem test_rspFrame_enters_queue :
    (next? (exec (.rspFrame [0x00, 0x00, 0xFF, 0x03, 0xFD, 0xD5] [0x41, 0x00] [0xEA, 0x00]) State.reset)).map
      (·.rxq) = some [0x00, 0x00, 0xFF, 0x03, 0xFD, 0xD5, 0x41, 0x00, 0xEA, 0x00] := by decide

/-- E3. -/
theorem test_encode_answers : answer? (exec (.encode 0x4A [0x01, 0x00]) idleState) =
    some (.bytes [0x00, 0x00, 0xFF, 0x04, 0xFC, 0xD4, 0x4A, 0x01, 0x00, 0xE1, 0x00]) := by decide

/-- E18. -/
theorem test_encode_refuses : refusal? (exec (.encode 0x40 (List.replicate 56 0x00)) idleState) =
    some .commandTooLong := by decide

/-- A1. -/
theorem test_isAck_answers : answer? (exec (.isAck [0x00, 0x00, 0xFF, 0x00, 0xFF, 0x00]) idleState) =
    some (.bit true) := by decide

/-- T2. -/
theorem test_strip_answers :
    answer? (exec (.strip [0x00, 0x00, 0xFF, 0x03, 0xFD, 0xD5, 0x41, 0x00, 0xEA, 0x00]) idleState) =
      some (.bytes [0x41, 0x00]) := by decide

/-- T4. -/
theorem test_strip_refuses : refusal? (exec (.strip [0x00, 0x00, 0xFF, 0x02, 0xFE, 0xD5, 0x15]) idleState) =
    some .responseTooShort := by decide

/-- W2, W8. -/
theorem test_wellFormed_answers : answer? (exec (.wellFormed t1 0xD5) idleState) = some (.bit true) ∧
    answer? (exec (.wellFormed t3 0xD5) idleState) = some (.bit true) := by decide

/-- X1's ACCEPT: the frame stands in `BUF`, the stale bytes are gone. -/
theorem test_execute_accepts : (next? (exec (.execute .first 0x02 [] 13) idleState)).map
    (fun t => (t.buf, t.flen, t.exp, t.phase, t.rxq)) = some (bufferAt 0 e1, 9, 13, .send, []) := by decide

/-- X15. -/
theorem test_execute_refuses : refusal? (exec (.execute .first 0x02 [] 65) idleState) =
    some .responseTooLong := by decide

/-- Z3: what waits in the queue survives the reset. -/
theorem test_reset_in_readRsp : (next? (exec .reset (readingAt (t1.take 5) 13 [0xD5, 0x03]))).map
    (fun t => (t.phase, t.result, t.rspLen, t.rxq)) = some (.idle, .none, 0, [0xD5, 0x03]) := by decide

/-- Z2: what was sent stays sent. -/
theorem test_reset_in_send : (next? (exec .reset (sendingAt 4))).map (fun t => (t.flen, t.idx, t.txlog)) =
    some (0, 0, [0x00, 0x00, 0xFF, 0x02]) := by decide

/-- E1, E2, E3, E4, E6: the five named commands put their frames into `BUF`. -/
theorem test_firmwareVersionQuery : (next? (exec (.firmwareVersionQuery .first [] 13) idleState)).map (·.buf) =
    some (bufferAt 0 e1) := by decide

theorem test_securityModuleConfiguration :
    (next? (exec (.securityModuleConfiguration .first [0x01, 0x14, 0x01] 9) idleState)).map (·.buf) =
      some (bufferAt 0 e2) := by decide

theorem test_passiveTargetListing :
    (next? (exec (.passiveTargetListing .first [0x01, 0x00] 19) idleState)).map (·.buf) =
      some (bufferAt 0 [0x00, 0x00, 0xFF, 0x04, 0xFC, 0xD4, 0x4A, 0x01, 0x00, 0xE1, 0x00]) := by decide

theorem test_rfRetryConfiguration :
    (next? (exec (.rfRetryConfiguration .first [0x05, 0xFF, 0x01, 0xFF] 9) idleState)).map (·.buf) =
      some (bufferAt 0
        [0x00, 0x00, 0xFF, 0x06, 0xFA, 0xD4, 0x32, 0x05, 0xFF, 0x01, 0xFF, 0xF6, 0x00]) := by decide

theorem test_dataExchange :
    (next? (exec (.dataExchange .first [0x01, 0x30, 0x04] 26) idleState)).map (·.buf) =
      some (bufferAt 0 [0x00, 0x00, 0xFF, 0x05, 0xFB, 0xD4, 0x40, 0x01, 0x30, 0x04, 0xB7, 0x00]) := by decide

/-! ### One step of each event of the block -/

/-- The last SEND step of X1 (R123). -/
theorem test_send_last_byte : (next? (moveEffect .block (sendingAt 8))).map (fun t => (t.txlog, t.phase, t.idx)) =
    some (e1, .waitAck, 0) := by decide

/-- The sixth byte is judged at once (R126), right and wrong. -/
theorem test_ack_verdict :
    (next? (moveEffect .block (ackAt5 [0x00, 0xD5]))).map (fun t => (t.phase, t.result, t.rxq)) =
      some (.readRsp, .none, [0xD5]) ∧
    (next? (moveEffect .block (ackAt5 [0x01, 0xD5]))).map (fun t => (t.phase, t.result, t.rxq)) =
      some (.idle, .ackMismatch, [0xD5]) := by decide

/-- The thirteenth response byte of X1 (R128, R129). -/
theorem test_rsp_last_byte :
    (next? (moveEffect .block (readingAt (t1.take 12) 13 [0x00, 0x77]))).map
      (fun t => (t.buf, t.rspLen, t.result, t.rxq)) = some (bufferAt 0 t1, 13, .ok, [0x77]) := by decide

/-- X3's and X7's timeouts (R127, R130). -/
theorem test_timeouts :
    (next? (moveEffect .rxTimeout (ackAt5 []))).map (fun t => (t.result, t.rspLen)) = some (.ackTimeout, 0) ∧
    (next? (moveEffect .rxTimeout (readingAt (t1.take 5) 13 []))).map (fun t => (t.result, t.rspLen)) =
      some (.rspTimeout, 5) := by decide

/-- `rsp_payload` of X1 (R107). -/
theorem test_read_payload : answer? (moveEffect (.read .rspPayload) (doneWith .ok t1 13)) =
    some (.bytes [0x03, 0x32, 0x01, 0x06, 0x07]) := by decide

/-- `ack_raw` right after reset (R37, U8). -/
theorem test_read_ack_before_write : refusal? (moveEffect (.read .ackRaw) State.reset) =
    some (.readBeforeWrite 0) := by decide

/-! ### Witnesses: the hypotheses of the statements, met together -/

theorem memLookup_lt {m : Memory} {n : Nat} (h : ∀ c ∈ m, c.1 < n) {a : Nat} {b : Byte}
    (hm : memLookup m a = some b) : a < n := by
  induction m with
  | nil => simp at hm
  | cons c m ih =>
    simp only [memLookup] at hm
    split at hm
    · next hc => exact hc ▸ h c (by simp)
    · exact ih (fun d hd => h d (by simp [hd])) hm

/-- The invariant of a concrete state, from what can be decided of it. -/
theorem inv_of_parts (s : State) (code : Byte) (params bs : List Byte)
    (legal : s.cfg.Legal) (canonical : Memory.wf s.buf = true) (inBuffer : ∀ c ∈ s.buf, c.1 < s.cfg.bufCap)
    (idle : s.phase = .idle → s.idx = 0)
    (busyRegisters : s.phase ≠ .idle →
      s.result = .none ∧ 9 ≤ s.flen ∧ s.flen ≤ s.cfg.bufCap ∧ s.exp ≤ rspMax s.cfg ∧ s.owner.isSome)
    (sending : s.phase = .send →
      s.idx < s.flen ∧ s.rspLen = 0 ∧ memRead s.buf 0 s.flen = some (encodeFrame code params))
    (waiting : s.phase = .waitAck →
      s.idx < 6 ∧ s.rspLen = 0 ∧ ∀ i : Fin 6, i.val < s.idx → s.ackWritten[i])
    (reading : s.phase = .readRsp →
      1 ≤ s.exp ∧ s.idx < s.exp ∧ s.rspLen = s.idx ∧ s.ackBuf.toList = ackConst)
    (lengths : s.rspLen ≤ s.exp ∧ s.exp ≤ s.cfg.bufCap)
    (doneOk : s.result = .ok → s.rspLen = s.exp ∧ s.ackBuf.toList = ackConst)
    (doneMismatch : s.result = .ackMismatch → s.ackBuf.toList ≠ ackConst ∧ s.rspLen = 0)
    (doneAckTimeout : s.result = .ackTimeout → s.rspLen = 0)
    (doneRspTimeout : s.result = .rspTimeout → s.rspLen < s.exp ∧ s.ackBuf.toList = ackConst)
    (responseKept : memRead s.buf 0 s.rspLen = some bs)
    (ackKept : s.phase = .readRsp ∨ s.result = .ok ∨ s.result = .ackMismatch ∨ s.result = .rspTimeout →
      ∀ i : Fin 6, s.ackWritten[i]) : Inv s where
  legal := legal
  canonical := canonical
  inBuffer := fun _ _ h => memLookup_lt inBuffer h
  idle := idle
  busyRegisters := busyRegisters
  sending := fun h => ⟨(sending h).1, (sending h).2.1, code, params, (sending h).2.2⟩
  waiting := waiting
  reading := reading
  lengths := lengths
  doneOk := doneOk
  doneMismatch := doneMismatch
  doneAckTimeout := doneAckTimeout
  doneRspTimeout := doneRspTimeout
  responseKept := ⟨bs, responseKept⟩
  ackKept := ackKept

theorem inv_sendingAt_zero : Inv (sendingAt 0) := by
  apply inv_of_parts (sendingAt 0) 0x02 [] [] <;> decide

theorem inv_sendingAt_last : Inv (sendingAt 8) := by
  apply inv_of_parts (sendingAt 8) 0x02 [] [] <;> decide

theorem inv_ackAt5_empty : Inv (ackAt5 []) := by
  apply inv_of_parts (ackAt5 []) 0x02 [] [] <;> decide

theorem inv_ackAt5_wrong : Inv (ackAt5 [0x01]) := by
  apply inv_of_parts (ackAt5 [0x01]) 0x02 [] [] <;> decide

theorem inv_ackAt5_right : Inv (ackAt5 [0x00]) := by
  apply inv_of_parts (ackAt5 [0x00]) 0x02 [] [] <;> decide

theorem inv_reading_last : Inv (readingAt (t1.take 12) 13 []) := by
  apply inv_of_parts (readingAt (t1.take 12) 13 []) 0x02 [] (t1.take 12) <;> decide

theorem inv_reading_last_byte : Inv (readingAt (t1.take 12) 13 [0x00]) := by
  apply inv_of_parts (readingAt (t1.take 12) 13 [0x00]) 0x02 [] (t1.take 12) <;> decide

theorem inv_done_eight : Inv (doneWith .ok t3 8) := by
  apply inv_of_parts (doneWith .ok t3 8) 0x02 [] t3 <;> decide

theorem inv_done_seven : Inv (doneWith .rspTimeout (t1.take 7) 13) := by
  apply inv_of_parts (doneWith .rspTimeout (t1.take 7) 13) 0x02 [] (t1.take 7) <;> decide

/-- StepRunsTheDecodedInstruction: the host's move by the schedule and by default, and a table word. -/
theorem test_witness_StepRunsTheDecodedInstruction :
    (nextMove { State.reset with program := [.resetPort] } = .host ∧
      decode .resetPort = .ok .reset) ∧
    (nextMove { sendingAt 0 with schedule := [.host], program := [.isAckCall []] } = .host ∧
      decode (.isAckCall []) = .ok (.isAck [])) ∧
    decodeTableWord 8 0xFF = some (.execute .first 0xFF [] 0) := ⟨⟨rfl, rfl⟩, ⟨rfl, rfl⟩, rfl⟩

/-- StepTakesTheNextMove. -/
theorem test_witness_StepTakesTheNextMove :
    (({ State.reset with schedule := [.devPush 0x00] } : State).schedule = .devPush 0x00 :: [] ∧
      Move.devPush 0x00 ≠ .host) ∧
    ((sendingAt 0).schedule = [] ∧ blockReady (sendingAt 0) = true) ∧
    (State.reset.schedule = [] ∧ blockReady State.reset = false ∧ State.reset.program = []) := by decide

/-- DecodeOfEncodeIsTheInstruction: the longest command frame. -/
theorem test_witness_DecodeOfEncodeIsTheInstruction :
    (Instr.cmdFrame 0x40 (List.replicate 253 0xAA)).wf = true := by
  simp only [Instr.wf, List.length_replicate]; decide

/-- WireBytesThatDecodeAreTheEncoding: both directions. -/
theorem test_witness_WireBytesThatDecodeAreTheEncoding :
    (∃ bs, Line.txWire e1 = .txWire bs ∨ Line.txWire e1 = .rxWire bs) ∧
    decode (.txWire e1) = .ok (.cmdFrame 0x02 []) ∧
    (∃ bs, Line.rxWire t3 = .txWire bs ∨ Line.rxWire t3 = .rxWire bs) ∧
    decode (.rxWire t3) = .ok (.rspFrame [0x00, 0x00, 0xFF, 0x01, 0xFF, 0xD5] [] [0x2B, 0x00]) :=
  ⟨⟨e1, .inl rfl⟩, rfl, ⟨t3, .inr rfl⟩, rfl⟩

/-- CommandFrameLayout: no parameter and 253 of them. -/
theorem test_witness_CommandFrameLayout :
    (([] : List Byte).length ≤ 253 ∧ encodeFrame 0x02 [] = e1) ∧
    (List.replicate 253 (0xAA : Byte)).length ≤ 253 := ⟨by decide, by
    simp only [List.length_replicate]; decide⟩

/-- ChecksumLawsOfCommandFrames. -/
theorem test_witness_ChecksumLawsOfCommandFrames : encodeFrame 0x14 [0x01, 0x14, 0x01] = e2 := by decide

/-- SingleByteErrorsAreDetected: the first and the last index of the data span, LEN, LCS, a swap. -/
theorem test_witness_SingleByteErrorsAreDetected :
    (encodeFrame 0x02 [] = e1 ∧ 5 ≤ 5 ∧ 5 < 8 + ([] : List Byte).length ∧ e1[5]? ≠ some 0xD5) ∧
    (5 ≤ 7 ∧ 7 < 8 + ([] : List Byte).length ∧ e1[7]? ≠ some 0x2B) ∧
    (e1[3]? ≠ some 0x03 ∧ e1[4]? ≠ some 0xFF) ∧
    [(0x4A : Byte), 0x01, 0x00].Perm [0x4A, 0x00, 0x01] :=
  ⟨by decide, by decide, by decide, .cons _ (.swap _ _ _)⟩

/-- EncodeOperation: 55 parameters and 56. -/
theorem test_witness_EncodeOperation :
    idleState.cfg.Legal ∧ (List.replicate 55 (0xAA : Byte)).length ≤ paramMax idleState.cfg ∧
    paramMax idleState.cfg < (List.replicate 56 (0xAA : Byte)).length := by decide

/-- IsAckOperation's second clause, and both clauses of StripOperation at their boundary. -/
theorem test_witness_IsAckOperation_StripOperation :
    frameWellFormed t3 0xD5 = true ∧ 8 ≤ t3.length ∧ (t3.take 7).length < 8 := by decide

/-- StripUndoesEncode and WellFormedFramesAreTheEncodedOnes, at the shortest frame. -/
theorem test_witness_StripUndoesEncode_WellFormedFramesAreTheEncodedOnes :
    encodeFrame 0x02 [] = encodeFrame 0x02 [] ∧ ([] : List Byte).length ≤ 253 ∧
    frameWellFormed e1 0xD4 = true ∧ 9 ≤ e1.length := by decide

/-- CmdFrameCrossesTheWire: from the first byte, from the last byte, and the three waits. -/
theorem test_witness_CmdFrameCrossesTheWire :
    (∀ i ∈ [0, 8], (sendingAt i).phase = .send ∧ (sendingAt i).txReady = true ∧
      (sendingAt i).idx < (sendingAt i).flen ∧ (sendingAt i).flen ≤ (sendingAt i).cfg.bufCap ∧
      memRead (sendingAt i).buf 0 (sendingAt i).flen = some (encodeFrame 0x02 [])) ∧
    (ackAt5 []).phase ≠ .send ∧ ({ sendingAt 0 with txReady := false } : State).txReady = false ∧
    memRead (sendingAt 0).buf 0 (sendingAt 0).flen ≠ some (encodeFrame 0x03 []) := by decide

/-- ExecuteIsAccepted, NamedCommandsAreAccepted: the largest operands; nobody, and the caller, holding. -/
theorem test_witness_ExecuteIsAccepted :
    (idleState.phase = .idle ∧ WithinContract idleState .first (List.replicate 55 0xAA) 64) ∧
    ((doneWith .ok t3 8).phase = .idle ∧ WithinContract (doneWith .ok t3 8) .first [] 0) := by
  simp only [WithinContract]; decide

/-- RefusalsOfTheContract: 56 parameters; 55 parameters and `L = 65`; a second caller; the block busy; the
codec's bounds; seven response bytes; an unwritten acknowledgment byte. -/
theorem test_witness_RefusalsOfTheContract :
    ((idleState.owner = none ∨ idleState.owner = some .first) ∧ idleState.phase = .idle) ∧
    idleState.cfg.bufCap < 9 + (List.replicate 56 (0xAA : Byte)).length ∧
    (9 + (List.replicate 55 (0xAA : Byte)).length ≤ idleState.cfg.bufCap ∧ idleState.cfg.bufCap < 65) ∧
    ((sendingAt 0).owner = some .first ∧ Caller.first ≠ .second) ∧
    (((sendingAt 0).owner = none ∨ (sendingAt 0).owner = some .first) ∧ (sendingAt 0).phase ≠ .idle) ∧
    (t3.take 7).length < 8 ∧ (doneWith .rspTimeout (t1.take 7) 13).rspLen < 8 ∧
    (ackAt5 []).ackWritten[(5 : Fin 6)] = false := by decide

/-- NamedCommandsWaitLikeExecute: busy; another caller; 56 parameters; 55 parameters and `L = 65`. -/
theorem test_witness_NamedCommandsWaitLikeExecute :
    Instr.dataExchange .first [] 0 ∈ [Instr.firmwareVersionQuery .first [] 0,
      .securityModuleConfiguration .first [] 0, .rfRetryConfiguration .first [] 0,
      .passiveTargetListing .first [] 0, .dataExchange .first [] 0] ∧
    ((sendingAt 0).owner = some .first ∧ (sendingAt 0).phase ≠ .idle ∧ Caller.first ≠ .second) ∧
    (idleState.owner = none ∧ idleState.phase = .idle) ∧
    idleState.cfg.bufCap < 9 + (List.replicate 56 (0xAA : Byte)).length ∧
    (9 + (List.replicate 55 (0xAA : Byte)).length ≤ idleState.cfg.bufCap ∧ idleState.cfg.bufCap < 65) := by
  decide

/-- CallerHoldsTheBlockUntilRelease: an accepted request, releases, resets, the move that completes an
exchange, an instruction that is no request, and a request that waits. -/
theorem test_witness_CallerHoldsTheBlockUntilRelease :
    (requester (.execute .first 0x02 [] 13) = some .first ∧ idleState.phase = .idle ∧
      (next? (exec (.execute .first 0x02 [] 13) idleState)).isSome = true) ∧
    (sendingAt 0).phase ≠ .idle ∧
    ((next? (moveEffect .reset idleState)).isSome = true ∧ (next? (exec .reset idleState)).isSome = true) ∧
    (Move.block ≠ .release ∧ Move.block ≠ .reset ∧
      (next? (moveEffect .block (ackAt5 [0x01]))).map (·.phase) = some .idle) ∧
    (requester .ackFrame = none ∧ (next? (exec .ackFrame (sendingAt 0))).isSome = true) ∧
    (next? (exec (.execute .first 0x02 [] 13) (sendingAt 0))).isSome = true := by decide

/-- TransportReadiness: a move that is not the transport's, an instruction, a block that may not send. -/
theorem test_witness_TransportReadiness :
    (next? (moveEffect .block (sendingAt 0))).isSome = true ∧
    (next? (exec (.execute .first 0x02 [] 13) idleState)).isSome = true ∧
    (({ sendingAt 0 with txReady := false } : State).phase = .send ∧
      ({ sendingAt 0 with txReady := false } : State).txReady = false) := by decide

/-- SendSteps: the first byte and the last one; a whole frame. ResetCutsTheFrame: before the last byte. -/
theorem test_witness_SendSteps_ResetCutsTheFrame :
    (∀ i ∈ [0, 8], (sendingAt i).phase = .send ∧ (sendingAt i).txReady = true ∧
      (sendingAt i).idx < (sendingAt i).flen) ∧
    bufByte (sendingAt 0) 0 = .ok 0x00 ∧ bufByte (sendingAt 8) 8 = .ok 0x00 ∧
    ((sendingAt 0).idx = 0 ∧ 0 < (sendingAt 0).flen ∧ 8 < (sendingAt 0).flen ∧
      (sendingAt 0).flen ≤ (sendingAt 0).cfg.bufCap ∧ memRead (sendingAt 0).buf 0 (sendingAt 0).flen = some e1) :=
  ⟨by decide, rfl, rfl, by decide⟩

/-- FrameValueOfAStrippedResponse: a length byte that agrees, and one that does not (T1, T6). -/
theorem test_witness_FrameValueOfAStrippedResponse :
    stripFrame t1 = some [0x03, 0x32, 0x01, 0x06, 0x07] ∧ (byteAt t1 3).toNat = t1.length - 7 ∧
    stripFrame (t1.take 10) = some [0x03, 0x32] ∧ (byteAt (t1.take 10) 3).toNat ≠ (t1.take 10).length - 7 := by
  decide

/-- OfferedByteIsNotWithdrawn: the block's move while the transport takes nothing, a byte from the device,
and a request that waits. -/
theorem test_witness_OfferedByteIsNotWithdrawn :
    txValid { sendingAt 8 with txReady := false } = true ∧
    (next? (moveEffect .block { sendingAt 8 with txReady := false })).isSome = true ∧
    txValid (sendingAt 8) = true ∧ (next? (moveEffect (.devPush 0x00) (sendingAt 8))).isSome = true ∧
    (next? (exec (.execute .first 0x02 [] 13) (sendingAt 8))).isSome = true := by decide

/-- AckByteStepAndVerdict: the first byte and the sixth, right and wrong, `EXP` zero and not. -/
theorem test_witness_AckByteStepAndVerdict :
    (({ ackAt5 [0x55] with idx := 0 } : State).phase = .waitAck ∧ 0 < 6) ∧
    ((ackAt5 [0x00]).phase = .waitAck ∧ (ackAt5 [0x00]).idx < 6 ∧ (ackAt5 [0x00]).rxq = 0x00 :: [] ∧
      (ackAt5 [0x00]).idx + 1 = 6 ∧
      ((ackAt5 [0x00]).ackBuf.setIfInBounds 5 0x00).toList = [0x00, 0x00, 0xFF, 0x00, 0xFF, 0x00] ∧
      (ackAt5 [0x00]).exp ≠ 0 ∧ ({ ackAt5 [0x00] with exp := 0 } : State).exp = 0) ∧
    ((ackAt5 [0x01]).ackBuf.setIfInBounds 5 0x01).toList ≠ [0x00, 0x00, 0xFF, 0x00, 0xFF, 0x00] := by decide

/-- RspByteStep, ResponseBytesAreNotInspected: the first of two bytes, and the last one. -/
theorem test_witness_RspByteStep :
    ((readingAt [] 2 [0x77]).phase = .readRsp ∧ (readingAt [] 2 [0x77]).idx + 1 < (readingAt [] 2 [0x77]).exp ∧
      (readingAt [] 2 [0x77]).exp ≤ (readingAt [] 2 [0x77]).cfg.bufCap ∧
      (readingAt [] 2 [0x77]).rxq = 0x77 :: []) ∧
    ((readingAt (t1.take 12) 13 [0x00]).idx + 1 = (readingAt (t1.take 12) 13 [0x00]).exp ∧
      (readingAt (t1.take 12) 13 [0x00]).exp ≤ (readingAt (t1.take 12) 13 [0x00]).cfg.bufCap) ∧
    (next? (moveEffect .block { readingAt (t1.take 12) 13 [] with rxq := 0x00 :: [] })).isSome = true := by decide

/-- TimeoutSteps: the two waits, and each reason for no effect. -/
theorem test_witness_TimeoutSteps :
    ((ackAt5 []).cfg.transportMayTimeOut = true ∧ (ackAt5 []).rxq = [] ∧ (ackAt5 []).phase = .waitAck) ∧
    ((readingAt [] 1 []).cfg.transportMayTimeOut = true ∧ (readingAt [] 1 []).rxq = [] ∧
      (readingAt [] 1 []).phase = .readRsp) ∧
    ({ ackAt5 [] with cfg := { bufCap := 64, transportMayTimeOut := false } } : State).cfg.transportMayTimeOut
      = false ∧
    (ackAt5 [0x00]).rxq ≠ [] ∧ idleState.phase = .idle ∧ (sendingAt 0).phase = .send := by decide

/-- DevPushAppends: a block move in `IDLE` and in `SEND`, and an ACCEPT over stale input. -/
theorem test_witness_DevPushAppends :
    (idleState.phase = .idle ∧ (next? (moveEffect .block idleState)).isSome = true) ∧
    ((sendingAt 8).phase = .send ∧ (next? (moveEffect .block (sendingAt 8))).isSome = true) ∧
    (next? (exec (.execute .first 0x02 [] 13) idleState)).isSome = true := by decide

/-- PhaseChangesOnlyAlongTheTable: a move that changes the phase, an instruction that does. -/
theorem test_witness_PhaseChangesOnlyAlongTheTable :
    Inv (sendingAt 8) ∧ (next? (moveEffect .block (sendingAt 8))).isSome = true ∧
    (next? (exec (.cmdFrame 0x02 []) (sendingAt 8))).isSome = true :=
  ⟨inv_sendingAt_last, by decide, by decide⟩

/-- FailureLeavesTheRecord: a timeout after five bytes, a wrong sixth byte, a timeout one byte short. -/
theorem test_witness_FailureLeavesTheRecord :
    (Inv (ackAt5 []) ∧ (ackAt5 []).phase ≠ .idle ∧
      (next? (moveEffect .rxTimeout (ackAt5 []))).map (fun t => (t.phase, isFailure t.result, t.result)) =
        some (.idle, true, .ackTimeout)) ∧
    (Inv (ackAt5 [0x01]) ∧ (ackAt5 [0x01]).phase ≠ .idle ∧
      (next? (moveEffect .block (ackAt5 [0x01]))).map (fun t => (t.phase, isFailure t.result, t.result)) =
        some (.idle, true, .ackMismatch)) ∧
    (Inv (readingAt (t1.take 12) 13 []) ∧ (readingAt (t1.take 12) 13 []).phase ≠ .idle ∧
      (next? (moveEffect .rxTimeout (readingAt (t1.take 12) 13 []))).map
        (fun t => (t.phase, isFailure t.result, t.result)) = some (.idle, true, .rspTimeout)) :=
  ⟨⟨inv_ackAt5_empty, by decide, by decide⟩, ⟨inv_ackAt5_wrong, by decide, by decide⟩,
    inv_reading_last, by decide, by decide⟩

/-- ResultPortReads: eight response bytes and seven; written and unwritten acknowledgment bytes. -/
theorem test_witness_ResultPortReads :
    (Inv (doneWith .ok t3 8) ∧ 8 ≤ (doneWith .ok t3 8).rspLen ∧
      ∀ i : Fin 6, (doneWith .ok t3 8).ackWritten[i] = true) ∧
    (Inv (doneWith .rspTimeout (t1.take 7) 13) ∧ (doneWith .rspTimeout (t1.take 7) 13).rspLen < 8) ∧
    (Inv (ackAt5 []) ∧ (ackAt5 []).ackWritten[(5 : Fin 6)] = false) :=
  ⟨⟨inv_done_eight, by decide, by decide⟩, ⟨inv_done_seven, by decide⟩, inv_ackAt5_empty, by decide⟩

/-- BufferAboveTheResponseIsHidden: another byte at `RSP_LEN`. -/
theorem test_witness_BufferAboveTheResponseIsHidden :
    (∀ a, a < (doneWith .ok t3 8).rspLen →
      memLookup (bufferAt 0 (t3 ++ [0xEE])) a = memLookup (doneWith .ok t3 8).buf a) ∧
    (next? (moveEffect (.read .rspRaw) (doneWith .ok t3 8))).isSome = true := by decide

/-- StepKeepsTheInvariant, NoStepFaults, StepKeepsCanonicalBufferAndParameters,
TransmitLogOnlyGrowsWhileSending: a sending block, and one at its last response byte. -/
theorem test_witness_StepKeepsTheInvariant :
    (Inv (sendingAt 0) ∧ (next? (step (sendingAt 0))).map (·.txlog) = some [0x00] ∧
      Memory.wf (sendingAt 0).buf = true) ∧
    (Inv (readingAt (t1.take 12) 13 [0x00]) ∧
      (next? (step (readingAt (t1.take 12) 13 [0x00]))).map (·.result) = some .ok) ∧
    (Inv (ackAt5 [0x00]) ∧ (next? (step (ackAt5 [0x00]))).map (·.phase) = some .readRsp) :=
  ⟨⟨inv_sendingAt_zero, by decide, by decide⟩, ⟨inv_reading_last_byte, by decide⟩, inv_ackAt5_right, by decide⟩

/-- ExchangeAsOneFunction. -/
theorem test_witness_ExchangeAsOneFunction :
    idleState.phase = .idle ∧ WithinContract idleState .first [] 13 ∧ idleState.txReady = true ∧
    idleState.cfg.transportMayTimeOut = true := by
  simp only [WithinContract]; decide

/-- The environment of the next two witnesses: the frame is sent, three bytes arrive, the read gives up. -/
def shortAnswer : List Move :=
  List.replicate 9 .block ++ [.devPush 0x11, .devPush 0x22, .devPush 0x33, .block, .block, .block, .rxTimeout]

/-- EveryInterleavingEndsAsTheBytesSay, on X4. -/
theorem test_witness_EveryInterleavingEndsAsTheBytesSay :
    idleState.phase = .idle ∧ (∀ m ∈ shortAnswer, exchangeMove m = true) ∧
    ((next? (exec (.execute .first 0x02 [] 13) idleState)).bind fun t =>
      (next? (runMoves shortAnswer t)).map fun u => (u.phase, u.result)) = some (.idle, .ackTimeout) := by decide

/-- PayloadSelectsNoBehaviour: two codes, two parameters each. -/
theorem test_witness_PayloadSelectsNoBehaviour :
    ([0x01, 0x00] : List Byte).length = ([0xFF, 0xFF] : List Byte).length ∧
    (next? (exec (.execute .first 0x40 [0xFF, 0xFF] 13) idleState)).isSome = true ∧
    ((next? (exec (.execute .first 0x4A [0x01, 0x00] 13) idleState)).bind fun t =>
      next? (runMoves shortAnswer t)).isSome = true := by decide

/-- WaitingLastsForEver: a transport that takes no byte, a silent device, a transport that never times out. -/
theorem test_witness_WaitingLastsForEver :
    (Waiting { sendingAt 0 with txReady := false } ∧ (sendingAt 0).schedule = [] ∧ (sendingAt 0).program = []) ∧
    Waiting (ackAt5 []) ∧ Waiting (readingAt [] 1 []) ∧
    (({ ackAt5 [] with cfg := { bufCap := 64, transportMayTimeOut := false } } : State).cfg.transportMayTimeOut
      = false ∧ (ackAt5 []).phase = .waitAck ∧ (ackAt5 []).rxq = [] ∧
      (∀ m ∈ [Move.block, .rxTimeout, .txReady false], exchangeMove m = true) ∧
      pushedBytes [Move.block, .rxTimeout, .txReady false] = []) := by
  simp only [Waiting]; decide

/-- WellBehavedDeviceGivesItsPayload: X1's device; a length one too small. -/
theorem test_witness_WellBehavedDeviceGivesItsPayload :
    WellBehavedAnswer 0xD5 (ackConst ++ t1) ∧ 12 ≤ t1.length := ⟨⟨t1, by decide, rfl⟩, by decide⟩

/-- The state that ACCEPT leaves of the firmware-version query with a length of eight bytes. -/
def acceptedEight : State := retire (accept .first 0x02 [] 8 idleState)

/-- The frame is sent, then the device answers with an acknowledgment and T3's response. -/
def politeAnswer : List Move := List.replicate 9 .block ++ (ackConst ++ t3).map .devPush

/-- WellBehavedDeviceCompletesTheExchange. -/
theorem test_witness_WellBehavedDeviceCompletesTheExchange :
    (idleState.cfg.Legal ∧ idleState.phase = .idle) ∧
    exec (.execute .first 0x02 [] ((ackConst ++ t3).length - 6)) idleState = .next acceptedEight ∧
    (∀ m ∈ politeAnswer, exchangeMove m = true ∧ m ≠ .rxTimeout) ∧
    WellBehavedDevice 0xD5 (ackConst ++ t3) acceptedEight politeAnswer ∧
    (next? (runMoves politeAnswer acceptedEight)).map (frameSentSince acceptedEight.txlog) = some true ∧
    (next? (runMoves (List.replicate 8 .block) acceptedEight)).map (·.phase) = some .send :=
  ⟨by decide, rfl, by decide, ⟨⟨t3, by decide, rfl⟩, by decide, ⟨[], rfl⟩, fun _ _ _ => by decide⟩,
    by decide, by decide⟩

/-- A device that answers one byte before the frame is out is not well-behaved (R58). -/
theorem test_early_answer_is_not_well_behaved :
    pushesOnlyAfterFrame acceptedEight.txlog (List.replicate 8 .block ++ [.devPush 0x00]) acceptedEight =
      false := by decide

/-- OperandBounds: both ends of the legal range. -/
theorem test_witness_OperandBounds :
    (Config.mk 9 true).Legal ∧ (Config.mk 262 true).Legal ∧ commandFits (Config.mk 9 true) [] = true := by decide

end Sys2Proof.Tests
end

section
/-! The host result port (R32): what a read of each port hands over, one lemma per port, and the statement
about all of them. -/

namespace Sys2Proof.Machine

variable {s : State}

/-- The command port is ready exactly in `IDLE` (R29, R31). -/
theorem cmdReady_eq_decide_idle (s : State) : cmdReady s = decide (s.phase = .idle) := by
  simp [cmdReady, busy]

/-- From eight bytes on, `STRIP` is not refused (R106, R157). -/
theorem stripChecked_eq_ok {bs : List Byte} (h : 8 ≤ bs.length) :
    stripChecked bs = .ok (slice bs 6 (bs.length - 2)) := by
  simp [stripChecked, stripFrame_eq_some bs h]

/-- A byte of `ack_raw` has a value exactly when it has been written since reset (R37). -/
theorem ackByte_eq_none_iff {i : Fin 6} : ackByte s i = none ↔ s.ackWritten[i] = false := by
  simp [ackByte]

theorem ackByte_eq_some {i : Fin 6} (h : s.ackWritten[i] = true) : ackByte s i = some s.ackBuf[i] :=
  if_pos h

/-- No byte of `ACKBUF` is found unwritten exactly when all six are written. -/
theorem firstUnwrittenAck_eq_none_iff :
    firstUnwrittenAck s = none ↔ ∀ i : Fin 6, s.ackWritten[i] = true := by
  have mem_indices : ∀ i : Fin 6, i ∈ ([0, 1, 2, 3, 4, 5] : List (Fin 6)) := by decide
  simp [firstUnwrittenAck, ackByte_eq_none_iff, mem_indices]

/-- In the invariant `rsp_raw` lies inside `BUF`, since `RSP_LEN ≤ EXP ≤ BUF_CAP`, so reading it is no fault
and gives the bytes stored there. -/
theorem Inv.rspRaw_eq_ok (h : Inv s) {bs : List Byte} (hbs : memRead s.buf 0 s.rspLen = some bs) :
    rspRaw s = .ok bs := by
  obtain ⟨hlen, hexp⟩ := h.lengths
  exact bufBytes_eq_ok.mpr ⟨.inr (by omega), hbs⟩

theorem readPort_rspRaw {bs : List Byte} (h : rspRaw s = .ok bs) :
    readPort .rspRaw s = .next (give (.bytes bs) s) := by
  simp [readPort, h]

/-- `rsp_payload` is `rsp_raw` stripped, from eight bytes on (R32, R106). -/
theorem readPort_rspPayload {bs : List Byte} (h : rspRaw s = .ok bs) (hlen : bs.length = s.rspLen)
    (h8 : 8 ≤ s.rspLen) : readPort .rspPayload s = .next (give (.bytes (slice bs 6 (s.rspLen - 2))) s) := by
  have hge : ¬ s.rspLen < overhead := Nat.not_lt.mpr h8
  simp [readPort, hge, h, stripChecked_eq_ok (hlen ▸ h8), hlen]

theorem readPort_rspPayload_tooShort (h : s.rspLen < 8) :
    readPort .rspPayload s = .refused .responseTooShort :=
  if_pos h

theorem readPort_ackByte_written {i : Fin 6} (h : s.ackWritten[i] = true) :
    readPort (.ackByte i) s = .next (give (.byte s.ackBuf[i]) s) := by
  simp only [readPort, ackByte_eq_some h]

theorem readPort_ackByte_unwritten {i : Fin 6} (h : s.ackWritten[i] = false) :
    readPort (.ackByte i) s = .refused (.readBeforeWrite i.val) := by
  simp only [readPort, ackByte_eq_none_iff.mpr h]

theorem readPort_ackRaw_written (h : ∀ i : Fin 6, s.ackWritten[i] = true) :
    readPort .ackRaw s = .next (give (.bytes s.ackBuf.toList) s) := by
  simp only [readPort, firstUnwrittenAck_eq_none_iff.mpr h]

/-- With some byte of `ACKBUF` unwritten, a read of the whole is refused at the first such byte. -/
theorem readPort_ackRaw_unwritten {i : Fin 6} (h : s.ackWritten[i] = false) :
    ∃ j : Fin 6, readPort .ackRaw s = .refused (.readBeforeWrite j.val) := by
  cases hj : firstUnwrittenAck s with
  | none =>
    have hi : s.ackWritten[i] = true := firstUnwrittenAck_eq_none_iff.mp hj i
    exact absurd (h.symm.trans hi) Bool.false_ne_true
  | some j => exact ⟨j, by simp only [readPort, hj]⟩

end Sys2Proof.Machine

namespace Sys2Proof.Proofs

open Sys2Proof Sys2Proof.Machine

/-- Settles O37: the ports of registers by definition; `rsp_raw` and `rsp_payload` from the bytes that the
invariant keeps below `RSP_LEN`; `ack_raw` by which of its bytes are written. -/
theorem resultPortReads : Obligations.ResultPortReads := by
  intro s hinv
  obtain ⟨bs, hbs⟩ := hinv.responseKept
  have hraw : rspRaw s = .ok bs := hinv.rspRaw_eq_ok hbs
  have hlen : bs.length = s.rspLen := ((memRead_eq_some_iff _ _ _ _).mp hbs).1
  refine ⟨rfl, ?cmdReady, rfl, rfl, ⟨bs, hbs, readPort_rspRaw hraw, readPort_rspPayload hraw hlen,
    readPort_rspPayload_tooShort⟩, fun _ => readPort_ackByte_written, readPort_ackRaw_written,
    fun _ h => ⟨readPort_ackByte_unwritten h, readPort_ackRaw_unwritten h⟩⟩
  case cmdReady =>
    rw [← cmdReady_eq_decide_idle]
    rfl

end Sys2Proof.Proofs
end

section
/-! The receive queue (R55): what waits in it is looked at only in `WAIT_ACK` and `READ_RSP`, and an accepted
request discards it. -/

namespace Sys2Proof.Machine

variable {s t : State}

/-- In `IDLE` and `SEND` the block waits or takes a SEND step (R64). -/
theorem blockStep_of_idle_or_send (hp : s.phase = .idle ∨ s.phase = .send) (h : blockStep s = .next t) :
    (blockReady s = false ∧ t = s) ∨ (s.phase = .send ∧ s.txReady = true ∧ sendStep s = .next t) := by
  rcases blockStep_eq_next.mp h with hwait | hsend | ⟨hack, -⟩ | ⟨hrsp, -⟩
  · exact .inl hwait
  · exact .inr hsend
  · simp [hack] at hp
  · simp [hrsp] at hp

/-- In `IDLE` and `SEND` whether the block has an own event does not depend on the queue. -/
theorem blockReady_with_rxq (hp : s.phase = .idle ∨ s.phase = .send) (q : List Byte) :
    blockReady { s with rxq := q } = blockReady s := by
  rcases hp with hp | hp <;> simp [blockReady, hp]

theorem sendStep_rxq (h : sendStep s = .next t) : t.rxq = s.rxq := by
  rw [sendStep_frame h]

/-- A SEND step is the same whatever the queue holds. -/
theorem sendStep_with_rxq (h : sendStep s = .next t) (q : List Byte) :
    sendStep { s with rxq := q } = .next { t with rxq := q } := by
  obtain ⟨b, hb, rfl⟩ := sendStep_eq_next.mp h
  refine sendStep_eq_next.mpr ⟨b, hb, ?_⟩
  split <;> rfl

/-- In `IDLE` and `SEND` the block's move leaves the queue as it is (R55). -/
theorem blockStep_rxq (hp : s.phase = .idle ∨ s.phase = .send) (h : blockStep s = .next t) :
    t.rxq = s.rxq := by
  rcases blockStep_of_idle_or_send hp h with ⟨-, rfl⟩ | ⟨-, -, hsend⟩
  · rfl
  · exact sendStep_rxq hsend

/-- In `IDLE` and `SEND` the block's move is the same whatever the queue holds (R55). -/
theorem blockStep_with_rxq (hp : s.phase = .idle ∨ s.phase = .send) (h : blockStep s = .next t)
    (q : List Byte) : blockStep { s with rxq := q } = .next { t with rxq := q } := by
  rcases blockStep_of_idle_or_send hp h with ⟨hwait, rfl⟩ | ⟨hphase, hready, hsend⟩
  · exact blockStep_waits ((blockReady_with_rxq hp q).trans hwait)
  · exact blockStep_eq_next.mpr (.inr (.inl ⟨hphase, hready, sendStep_with_rxq hsend q⟩))

@[simp] theorem accept_rxq (caller : Caller) (code : Byte) (params : List Byte) (explen : Nat) (s : State) :
    (accept caller code params explen s).rxq = [] := rfl

/-- A request presented to an idle block is accepted, if it has a next state at all, and so discards what
waits in the queue (R55, R122). -/
theorem requestExchange_idle_rxq {caller : Caller} {code : Byte} {params : List Byte} {explen : Nat}
    (hp : s.phase = .idle) (h : requestExchange caller code params explen s = .next t) : t.rxq = [] := by
  obtain ⟨-, ⟨hbusy, -⟩ | ⟨-, -, -, rfl⟩⟩ := requestExchange_eq_next.mp h
  · exact absurd hp hbusy
  · simp

end Sys2Proof.Machine

namespace Sys2Proof.Proofs

open Sys2Proof Sys2Proof.Machine

/-- Settles O32: the push by definition; the block's move from the two things it can do in `IDLE` and `SEND`,
neither of which reads the queue; the ACCEPT from its flush. -/
theorem devPushAppends : Obligations.DevPushAppends :=
  ⟨fun _ _ => rfl,
    fun _ _ q hp h => ⟨blockStep_rxq hp h, blockStep_with_rxq hp h q⟩,
    fun _ _ _ _ _ _ hidle h => requestExchange_idle_rxq hidle h⟩

end Sys2Proof.Proofs
end

section
/-! The bytes of a command frame by their positions (R71 to R74): the header ends with DIR at position 5, the
payload follows it, then DCS and the postamble. -/

namespace Sys2Proof.Machine

/-- LEN is not reduced when the payload has at most 254 bytes (R72). -/
theorem lenByte_toNat {payload : List Byte} (h : payload.length ≤ 254) :
    (lenByte payload).toNat = payload.length + 1 := by
  rw [lenByte, BitVec.toNat_ofNat]
  exact Nat.mod_eq_of_lt (by omega)

/-- LCS is `neg8` of the LEN byte that stands in the frame (R73). -/
theorem lcsByte_eq_neg8_lenByte {payload : List Byte} (h : payload.length ≤ 254) :
    lcsByte payload = neg8 (lenByte payload).toNat := by
  rw [lcsByte, lenByte_toNat h]

/-- From position 7 on, a command frame is its parameters, DCS and the postamble. -/
theorem encodeFrame_getElem?_seven_add (code : Byte) (params : List Byte) (i : Nat) :
    (encodeFrame code params)[7 + i]? = (params ++ [dcsByte (payloadOf code params), 0x00#8])[i]? := by
  simp [encodeFrame_eq, Nat.add_comm 7 i]

/-- The parameters stand in order from position 7 (R71). -/
theorem encodeFrame_getElem?_param (code : Byte) {params : List Byte} {i : Nat} (h : i < params.length) :
    (encodeFrame code params)[7 + i]? = params[i]? := by
  rw [encodeFrame_getElem?_seven_add, List.getElem?_append_left h]

/-- DCS follows the last parameter (R71). -/
theorem encodeFrame_getElem?_dcs (code : Byte) (params : List Byte) :
    (encodeFrame code params)[7 + params.length]? = some (dcsByte (payloadOf code params)) := by
  rw [encodeFrame_getElem?_seven_add]
  simp

/-- The postamble follows DCS (R71). -/
theorem encodeFrame_getElem?_postamble (code : Byte) (params : List Byte) :
    (encodeFrame code params)[8 + params.length]? = some 0x00#8 := by
  rw [show 8 + params.length = 7 + (params.length + 1) by omega, encodeFrame_getElem?_seven_add]
  simp

end Sys2Proof.Machine

namespace Sys2Proof.Proofs

open Sys2Proof Sys2Proof.Machine

/-- Settles O7: the header's seven bytes by the frame written out, what follows by the lemmas on the positions
from 7 on; only LEN needs the bound on the parameters. -/
theorem commandFrameLayout : Obligations.CommandFrameLayout := by
  rintro code params _ hbound rfl
  have hpayload : (payloadOf code params).length ≤ 254 := by
    rw [payloadOf_length]
    omega
  have hlen : (lenByte (payloadOf code params)).toNat = 2 + params.length := by
    rw [lenByte_toNat hpayload, payloadOf_length]
    omega
  exact ⟨encodeFrame_length code params, rfl, rfl, rfl,
    ⟨lenByte (payloadOf code params), rfl, hlen, congrArg some (lcsByte_eq_neg8_lenByte hpayload)⟩,
    rfl, rfl, fun _ hi => encodeFrame_getElem?_param code hi, encodeFrame_getElem?_dcs code params,
    encodeFrame_getElem?_postamble code params⟩

end Sys2Proof.Proofs
end

section
/-! The Frame Codec: the checksum laws of an encoded frame (R102), what each codec operation answers (R101,
R104, R106, R112), and the statements about them. -/

namespace Sys2Proof.Machine

variable {s : State}

/-! ### Byte strings by position -/

/-- Below the length, the byte at a position is the one `byteAt` reads. -/
theorem getElem?_eq_some_iff_byteAt {bs : List Byte} {i : Nat} (h : i < bs.length) {b : Byte} :
    bs[i]? = some b ↔ byteAt bs i = b := by
  rw [byteAt, List.getD_eq_getElem _ _ h, List.getElem?_eq_getElem h, Option.some.injEq]

/-- A byte string is what stands before a slice, the slice, and what stands behind it. -/
theorem take_append_slice_append_drop (bs : List Byte) {a b : Nat} (h : a ≤ b) :
    bs.take a ++ slice bs a b ++ bs.drop b = bs := by
  rw [slice, ← List.take_add, Nat.add_sub_cancel' h, List.take_append_drop]

/-! ### The checksums of an encoded frame -/

/-- The length law, also where LEN is reduced to its byte (R73). -/
theorem lenByte_add_lcsByte_mod (payload : List Byte) :
    ((lenByte payload).toNat + (lcsByte payload).toNat) % 256 = 0 := by
  rw [lenByte, lcsByte, BitVec.toNat_ofNat, Nat.mod_add_mod, add_neg8_mod]

/-- From DIR up to DCS, a command frame is DIR, the payload and DCS (R71). -/
theorem slice_encodeFrame_dataSpan (code : Byte) (params : List Byte) :
    slice (encodeFrame code params) 5 (8 + params.length) =
      dirH2D :: payloadOf code params ++ [dcsByte (payloadOf code params)] := by
  have hspan : 8 + params.length - 5 = params.length + 1 + 1 + 1 := by omega
  simp [slice, encodeFrame_eq, hspan, payloadOf, List.take_append]

/-- The data law: DCS makes DIR, the payload and DCS sum to 0 (R74). -/
theorem sum8_dataSpan (payload : List Byte) : sum8 (dirH2D :: payload ++ [dcsByte payload]) = 0 := by
  simpa [sum8, dcsByte, Nat.add_assoc] using add_neg8_mod (dirH2D.toNat + sumBytes payload)

/-! ### The operations' values -/

/-- For a legal `BUF_CAP` a command fits exactly up to `PARAM_MAX` (R8, R82). -/
theorem commandFits_iff_le_paramMax {c : Config} (h : c.Legal) {params : List Byte} :
    commandFits c params = true ↔ params.length ≤ paramMax c := by
  obtain ⟨hcap, -⟩ := h
  rw [commandFits, decide_eq_true_iff, paramMax]
  omega

/-- Below eight bytes `STRIP` is refused (R106, R157). -/
theorem stripChecked_eq_error {bs : List Byte} (h : bs.length < 8) :
    stripChecked bs = .error .responseTooShort := by
  simp [stripChecked, (stripFrame_eq_none bs).mpr h]

/-- The predicate's conditions, in the order of R112. -/
theorem frameWellFormed_iff {bs : List Byte} {dir : Byte} : frameWellFormed bs dir = true ↔
    8 ≤ bs.length ∧ bs.length ≤ 262 ∧
    byteAt bs 0 = 0x00#8 ∧ byteAt bs 1 = 0x00#8 ∧ byteAt bs 2 = 0xFF#8 ∧
    (byteAt bs 3).toNat = bs.length - 7 ∧ ((byteAt bs 3).toNat + (byteAt bs 4).toNat) % 256 = 0 ∧
    byteAt bs 5 = dir ∧ sum8 (slice bs 5 (bs.length - 1)) = 0 ∧
    byteAt bs (bs.length - 1) = 0x00#8 := by
  simp only [frameWellFormed, Bool.and_eq_true, decide_eq_true_iff, and_assoc]

/-- The acknowledgment has six bytes and a well-formed frame eight or more (R104, R112). -/
theorem isAckFrame_of_frameWellFormed {bs : List Byte} {dir : Byte} (h : frameWellFormed bs dir = true) :
    isAckFrame bs = false := by
  obtain ⟨hlen, -⟩ := frameWellFormed_iff.mp h
  refine decide_eq_false ?_
  rintro rfl
  exact absurd hlen (by decide)

/-! ### The operations as instructions

Each hands its value over and its line is done; nothing else changes (R100). -/

theorem exec_encode_of_fits {code : Byte} {params : List Byte} (h : commandFits s.cfg params = true) :
    exec (.encode code params) s = .next (retire (give (.bytes (encodeFrame code params)) s)) := by
  simp [exec, execEncode, encodeChecked, h]

theorem exec_encode_tooLong {code : Byte} {params : List Byte} (h : ¬ commandFits s.cfg params = true) :
    exec (.encode code params) s = .refused .commandTooLong := by
  simp [exec, execEncode, encodeChecked, h]

theorem exec_isAck (bs : List Byte) (s : State) :
    exec (.isAck bs) s = .next (retire (give (.bit (isAckFrame bs)) s)) := rfl

theorem exec_strip_of_le {bs : List Byte} (h : 8 ≤ bs.length) :
    exec (.strip bs) s = .next (retire (give (.bytes (slice bs 6 (bs.length - 2))) s)) := by
  simp [exec, execStrip, stripChecked_eq_ok h]

theorem exec_strip_tooShort {bs : List Byte} (h : bs.length < 8) :
    exec (.strip bs) s = .refused .responseTooShort := by
  simp [exec, execStrip, stripChecked_eq_error h]

theorem exec_wellFormed (bs : List Byte) (dir : Byte) (s : State) :
    exec (.wellFormed bs dir) s = .next (retire (give (.bit (frameWellFormed bs dir)) s)) := rfl

end Sys2Proof.Machine

namespace Sys2Proof.Proofs

open Sys2Proof Sys2Proof.Machine

/-- Settles O8: the length law holds of LEN and LCS as they are built, and the slice is the data span, which DCS
makes sum to 0. -/
theorem checksumLawsOfCommandFrames : Obligations.ChecksumLawsOfCommandFrames := by
  rintro code params _ rfl
  have hend : 7 + (1 + params.length) = 8 + params.length := by omega
  constructor
  · exact lenByte_add_lcsByte_mod (payloadOf code params)
  · rw [hend, slice_encodeFrame_dataSpan, sum8_dataSpan]

/-- Settles O14: the answer is the model's predicate, whose `byteAt` at each position is the byte there, since
every position lies below the length that the predicate demands first. -/
theorem wellFormedOperation : Obligations.WellFormedOperation := by
  intro s bs dir
  refine ⟨frameWellFormed bs dir, exec_wellFormed bs dir s, frameWellFormed_iff.trans ?_⟩
  refine and_congr_right fun hlen => ?_
  have hbyte : ∀ i < 8, ∀ b, bs[i]? = some b ↔ byteAt bs i = b :=
    fun i hi _ => getElem?_eq_some_iff_byteAt (by omega)
  have hlast : ∀ b, bs[bs.length - 1]? = some b ↔ byteAt bs (bs.length - 1) = b :=
    fun _ => getElem?_eq_some_iff_byteAt (by omega)
  simp [hbyte, hlast, sum8, and_assoc]

/-- Settles O11: within the capacity the frame, which is the one written out, is handed over; beyond it the
command is refused. -/
theorem encodeOperation : Obligations.EncodeOperation := by
  intro s code params hlegal
  constructor
  · intro hle
    exact exec_encode_of_fits ((commandFits_iff_le_paramMax hlegal).mpr hle)
  · intro hgt
    exact exec_encode_tooLong fun hfits => Nat.not_le.mpr hgt ((commandFits_iff_le_paramMax hlegal).mp hfits)

/-- Settles O12: the operation compares with the six constant bytes; a well-formed frame is longer. -/
theorem isAckOperation : Obligations.IsAckOperation :=
  fun s bs => ⟨exec_isAck bs s, fun _ => isAckFrame_of_frameWellFormed⟩

/-- Settles O13: the string is cut at positions 6 and two before its end, which are in order from eight bytes
on. -/
theorem stripOperation : Obligations.StripOperation := by
  refine fun s bs => ⟨fun hlen => ?_, exec_strip_tooShort⟩
  refine ⟨bs.take 6, slice bs 6 (bs.length - 2), bs.drop (bs.length - 2), ?header, ?trailer, ?split,
    exec_strip_of_le hlen⟩
  case header => rw [List.length_take]; omega
  case trailer => rw [List.length_drop]; omega
  case split => exact (take_append_slice_append_drop bs (by omega)).symm

end Sys2Proof.Proofs
end

section
/-! The events of an exchange, each as one equation for the request or the block's move (R122, R123, R125, R126,
R128), and the whole frame's SEND steps by induction on the bytes still to send. -/

namespace Sys2Proof.Machine

variable {s t : State}

/-! ### Acceptance -/

/-- What ACCEPT leaves, for a request of any command: the frame is what is written to `BUF` from index 0, and
the other fields are latched, cleared or untouched by the named updates (R122). -/
theorem accepted_retire_accept (caller : Caller) (code : Byte) (params : List Byte) (explen : Nat) (s : State) :
    Accepted s caller code params explen (retire (accept caller code params explen s)) where
  frame := by
    rw [← encodeFrame_length code params]
    exact memRead_memWrite s.buf 0 (encodeFrame code params)
  bufAbove a ha :=
    memLookup_memWrite_outside (encodeFrame code params) s.buf 0 a (.inr (by rw [encodeFrame_length]; omega))
  flen := encodeFrame_length code params
  exp := rfl
  rspLen := rfl
  result := rfl
  idx := rfl
  phase := rfl
  rxq := rfl
  txlog := rfl
  ackBuf := rfl
  ackWritten := rfl
  cfg := rfl
  txReady := rfl
  program := rfl
  schedule := rfl
  owner := rfl
  answer := rfl
  freeCount := rfl

/-- A request within the contract is accepted by an idle block, whatever its command (R31, R122). -/
theorem requestExchange_accepted {caller : Caller} {params : List Byte} {explen : Nat} (code : Byte)
    (hidle : s.phase = .idle) (hcontract : WithinContract s caller params explen) :
    ∃ t, requestExchange caller code params explen s = .next t ∧ Accepted s caller code params explen t := by
  obtain ⟨howner, hcommand, hresponse⟩ := hcontract
  exact ⟨_, requestExchange_eq_next.mpr ⟨howner, .inr ⟨hidle, hcommand, hresponse, rfl⟩⟩,
    accepted_retire_accept caller code params explen s⟩

/-! ### The block's move in each phase that has one -/

/-- The block's move in `SEND` with the transport ready (R123). -/
theorem moveEffect_block_send {b : Byte} (hphase : s.phase = .send) (hready : s.txReady = true)
    (hb : bufByte s s.idx = .ok b) :
    moveEffect .block s = .next (if s.idx + 1 < s.flen then nextIdx (txByte b s)
      else enterPhase .waitAck (txByte b s)) :=
  blockStep_eq_next.mpr (.inr (.inl ⟨hphase, hready, sendStep_eq_next.mpr ⟨b, hb, rfl⟩⟩))

/-- The block's move in `WAIT_ACK` with a byte in the queue (R125). -/
theorem moveEffect_block_waitAck {b : Byte} {rest : List Byte} (hphase : s.phase = .waitAck) (hidx : s.idx < 6)
    (hrxq : s.rxq = b :: rest) :
    moveEffect .block s = .next (if s.idx + 1 < 6 then nextIdx (storeAck s.idx b (rxPop s))
      else ackVerdict (storeAck s.idx b (rxPop s))) :=
  blockStep_eq_next.mpr (.inr (.inr (.inl
    ⟨hphase, b, rest, hrxq, ackByteStep_eq_next.mpr ⟨hidx, rfl⟩⟩)))

/-- The block's move in `READ_RSP` with a byte in the queue (R128, R129). -/
theorem moveEffect_block_readRsp {b : Byte} {rest : List Byte} (hphase : s.phase = .readRsp)
    (hidx : s.idx < s.cfg.bufCap) (hrxq : s.rxq = b :: rest) :
    moveEffect .block s = .next (
      if s.idx + 1 < s.exp then nextIdx (setRspLen (s.idx + 1) (storeBuf s.idx [b] (rxPop s)))
      else complete .ok (setRspLen (s.idx + 1) (storeBuf s.idx [b] (rxPop s)))) :=
  blockStep_eq_next.mpr (.inr (.inr (.inr
    ⟨hphase, b, rest, hrxq, rspByteStep_eq_next.mpr ⟨hidx, rfl⟩⟩)))

/-- Taking the queue's oldest byte leaves the others (R54). -/
theorem rxPop_of_cons {b : Byte} {rest : List Byte} (hrxq : s.rxq = b :: rest) :
    rxPop s = { s with rxq := rest } := by
  rw [rxPop, hrxq, List.tail_cons]

/-- The verdict as the three outcomes of R126, the comparison written as one of byte strings. -/
theorem ackVerdict_eq (s : State) : ackVerdict s =
    if s.ackBuf.toList ≠ ackConst then complete .ackMismatch s
    else if s.exp = 0 then complete .ok s
    else enterPhase .readRsp s := by
  simp [ackVerdict, isAckFrame]

/-! ### A frame sent byte by byte -/

theorem runMoves_cons_of_next {m : Move} {ms : List Move} (h : moveEffect m s = .next t) :
    runMoves (m :: ms) s = runMoves ms t := by
  simp only [runMoves, h]

/-- A range read is its first byte and the range behind it. -/
theorem exists_cons_of_memRead_succ {m : Memory} {a n : Nat} {bs : List Byte}
    (h : memRead m a (n + 1) = some bs) :
    ∃ b cs, bs = b :: cs ∧ memLookup m a = some b ∧ memRead m (a + 1) n = some cs := by
  rw [memRead] at h
  cases hb : memLookup m a with
  | none => simp [hb] at h
  | some b =>
    rw [hb] at h
    obtain ⟨cs, hcs, rfl⟩ := Option.map_eq_some_iff.mp h
    exact ⟨b, cs, rfl, rfl, hcs⟩

/-- From any byte of the frame on, as many moves of the block as bytes are left send exactly these bytes, and
the last of them enters `WAIT_ACK` (R123). -/
theorem runMoves_block_send_rest {n : Nat} {bs : List Byte} (hphase : s.phase = .send)
    (hready : s.txReady = true) (hn : s.idx + (n + 1) = s.flen) (hcap : s.flen ≤ s.cfg.bufCap)
    (hread : memRead s.buf s.idx (n + 1) = some bs) :
    runMoves (List.replicate (n + 1) .block) s =
      .next { s with txlog := s.txlog ++ bs, phase := .waitAck, idx := 0 } := by
  induction n generalizing s bs with
  | zero =>
    obtain ⟨b, cs, rfl, hb, hcs⟩ := exists_cons_of_memRead_succ hread
    obtain rfl : [] = cs := Option.some.inj hcs
    have hmove := moveEffect_block_send hphase hready (bufByte_eq_ok.mpr ⟨by omega, hb⟩)
    rw [if_neg (by omega)] at hmove
    exact runMoves_cons_of_next hmove
  | succ n ih =>
    obtain ⟨b, cs, rfl, hb, hcs⟩ := exists_cons_of_memRead_succ hread
    have hmove := moveEffect_block_send hphase hready (bufByte_eq_ok.mpr ⟨by omega, hb⟩)
    rw [if_pos (by omega)] at hmove
    have hrest := ih (s := nextIdx (txByte b s)) hphase hready (show s.idx + 1 + (n + 1) = s.flen by omega)
      hcap hcs
    have happend : s.txlog ++ [b] ++ cs = s.txlog ++ b :: cs := (List.append_cons s.txlog b cs).symm
    calc runMoves (List.replicate (n + 1 + 1) .block) s
        = runMoves (List.replicate (n + 1) .block) (nextIdx (txByte b s)) := runMoves_cons_of_next hmove
      _ = .next { s with txlog := s.txlog ++ [b] ++ cs, phase := .waitAck, idx := 0 } := hrest
      _ = .next { s with txlog := s.txlog ++ b :: cs, phase := .waitAck, idx := 0 } := by rw [happend]

end Sys2Proof.Machine

namespace Sys2Proof.Proofs

open Sys2Proof Sys2Proof.Machine

/-- Settles O21: `EXECUTE` is the request at the command port, accepted in `IDLE` within the contract. -/
theorem executeIsAccepted : Obligations.ExecuteIsAccepted :=
  fun _ _ code _ _ hidle hcontract => requestExchange_accepted code hidle hcontract

/-- Settles O26: one SEND step by its equation; the whole frame is what is left of it at `IDX` 0. -/
theorem sendSteps : Obligations.SendSteps := by
  constructor
  · exact fun _ _ hphase hready _ hb => moveEffect_block_send hphase hready hb
  · intro s frame hphase hready hidx hpos hcap hread
    obtain ⟨n, hn⟩ : ∃ n, s.flen = n + 1 := Nat.exists_eq_add_one.mpr hpos
    rw [hn, ← hidx] at hread
    have hsent := runMoves_block_send_rest hphase hready (by omega) hcap hread
    rwa [← hn] at hsent

/-- Settles O29: the byte is the one written at `IDX`; whether it is the `EXP`-th decides between the next
byte and completion. -/
theorem rspByteStep : Obligations.RspByteStep := by
  intro s b rest hphase hidx hcap hrxq
  have hmove := moveEffect_block_readRsp hphase (Nat.lt_of_lt_of_le hidx hcap) hrxq
  rw [rxPop_of_cons hrxq] at hmove
  have hself : memLookup (memWrite s.buf s.idx [b]) s.idx = some b := memLookup_memInsert_self s.buf s.idx b
  have hother : ∀ a, a ≠ s.idx → memLookup (memWrite s.buf s.idx [b]) a = memLookup s.buf a :=
    fun a ha => memLookup_memInsert_ne s.buf b ha
  have hcount : s.idx + 1 ≤ s.exp := hidx
  rcases hcount.lt_or_eq with hmore | hlast
  · rw [if_pos hmore] at hmove
    exact ⟨_, hmove, hself, hother, fun _ => rfl, fun hlast => absurd hlast (Nat.ne_of_lt hmore)⟩
  · rw [if_neg (Nat.not_lt_of_le hlast.ge), hlast] at hmove
    exact ⟨_, hmove, hself, hother, fun hmore => absurd hlast (Nat.ne_of_lt hmore), fun _ => rfl⟩

/-- Settles O28: the byte is stored where `IDX` says; the sixth is followed by the verdict's three outcomes. -/
theorem ackByteStepAndVerdict : Obligations.AckByteStepAndVerdict := by
  rintro s b rest _ _ hphase hidx hrxq rfl rfl
  rw [moveEffect_block_waitAck hphase hidx hrxq, ackVerdict_eq, rxPop_of_cons hrxq]
  rfl

end Sys2Proof.Proofs
end

section
/-! The decoder and the encoder (R70, R89, R113): a command frame taken apart into its bytes, a well-formed frame as
the frame of its own payload, and what the decoder reads from the wire in each direction. -/

namespace Sys2Proof.Machine

/-! ### Arithmetic of the checksums -/

/-- The byte that makes a sum 0 modulo 256 is the sum's `neg8` (R11). -/
theorem eq_neg8_of_add_mod {x : Nat} {b : Byte} (h : (x + b.toNat) % 256 = 0) : b = neg8 x := by
  apply BitVec.eq_of_toNat_eq
  rw [neg8_toNat]
  have := b.isLt
  omega

/-- `neg8` gives 0 exactly for the multiples of 256. -/
theorem neg8_eq_zero_iff {x : Nat} : neg8 x = 0x00#8 ↔ x % 256 = 0 := by
  rw [← BitVec.toNat_inj, neg8_toNat]
  simp only [BitVec.toNat_ofNat]
  omega

/-- Storing a byte in a string trades the old byte for the new one in the sum. -/
theorem sumBytes_set {bs : List Byte} {i : Nat} (h : i < bs.length) (b : Byte) :
    sumBytes (bs.set i b) + bs[i].toNat = sumBytes bs + b.toNat := by
  induction bs generalizing i with
  | nil => simp at h
  | cons c cs ih =>
    cases i with
    | zero => simp; omega
    | succ j =>
      have := ih (i := j) (by simpa using h)
      simp only [List.set_cons_succ, sumBytes_cons, List.getElem_cons_succ]
      omega

/-- A string that sums to 0 does not after one of its bytes has changed (R75). -/
theorem sum8_set_ne_zero {bs : List Byte} {i : Nat} {b : Byte} (hi : i < bs.length) (hsum : sum8 bs = 0)
    (hb : bs[i]? ≠ some b) : sum8 (bs.set i b) ≠ 0 := by
  intro hset
  refine hb ?_
  rw [List.getElem?_eq_getElem hi, Option.some.injEq, ← BitVec.toNat_inj]
  have htrade := sumBytes_set hi b
  have hold := bs[i].isLt
  have hnew := b.isLt
  simp only [sum8] at hsum hset
  omega

/-- The sum of a string does not depend on the order of its bytes. -/
theorem sumBytes_perm {xs ys : List Byte} (h : xs.Perm ys) : sumBytes xs = sumBytes ys := by
  induction h with
  | nil => rfl
  | cons b _ ih => simp [ih]
  | swap b c bs => simp only [sumBytes_cons]; omega
  | trans _ _ ih₁ ih₂ => exact ih₁.trans ih₂

/-! ### Command frames by their bytes -/

theorem byteAt_eq_of_getElem? {bs : List Byte} {i : Nat} {b : Byte} (h : bs[i]? = some b) : byteAt bs i = b := by
  rw [byteAt, List.getD_eq_getElem?_getD, h, Option.getD_some]

/-- A string of nine bytes or more has a byte at each place of the command frame's layout (R71). -/
theorem exists_frameLayout {bs : List Byte} (h : 9 ≤ bs.length) :
    ∃ s0 s1 s2 len lcs dir code params dcs post,
      bs = s0 :: s1 :: s2 :: len :: lcs :: dir :: code :: (params ++ [dcs, post]) := by
  match bs, h with
  | s0 :: s1 :: s2 :: len :: lcs :: dir :: code :: rest, h =>
    have hrest : 2 ≤ rest.length := by simpa using h
    obtain ⟨dcs, post, htail⟩ := List.length_eq_two.mp
      (show (rest.drop (rest.length - 2)).length = 2 by rw [List.length_drop]; omega)
    refine ⟨s0, s1, s2, len, lcs, dir, code, rest.take (rest.length - 2), dcs, post, ?_⟩
    rw [← htail, List.take_append_drop]

/-- Behind the code byte and before the checksum stand the parameters (R71). -/
theorem slice_encodeFrame_params (code : Byte) (params : List Byte) :
    slice (encodeFrame code params) 7 ((encodeFrame code params).length - 2) = params := by
  have hspan : 9 + params.length - 2 - 7 = params.length := by omega
  rw [encodeFrame_length, slice, hspan, encodeFrame_eq]
  simp

/-- Behind the header and before the trailer stands the payload (R71, R106). -/
theorem stripFrame_encodeFrame (code : Byte) (params : List Byte) :
    stripFrame (encodeFrame code params) = some (code :: params) := by
  have hspan : 9 + params.length - 2 - 6 = params.length + 1 := by omega
  rw [stripFrame_eq_some _ (by rw [encodeFrame_length]; omega), encodeFrame_length, slice, hspan, encodeFrame_eq]
  simp

/-- `ENCODE` is injective, since `STRIP` undoes it (R103, R108). -/
theorem encodeFrame_inj {code code' : Byte} {params params' : List Byte}
    (h : encodeFrame code params = encodeFrame code' params') : code = code' ∧ params = params' := by
  have hstrip := congrArg stripFrame h
  rw [stripFrame_encodeFrame, stripFrame_encodeFrame] at hstrip
  simpa using hstrip

/-- `ENCODE`'s frames are well-formed up to 253 parameters (R103, R112). -/
theorem frameWellFormed_encodeFrame (code : Byte) {params : List Byte} (h : params.length ≤ 253) :
    frameWellFormed (encodeFrame code params) dirH2D = true := by
  have hpayload : (payloadOf code params).length ≤ 254 := by rw [payloadOf_length]; omega
  have hend : 9 + params.length - 1 = 8 + params.length := by omega
  refine frameWellFormed_iff.mpr ?_
  rw [encodeFrame_length, hend, slice_encodeFrame_dataSpan,
    byteAt_eq_of_getElem? (encodeFrame_getElem?_postamble code params)]
  refine ⟨by omega, by omega, rfl, rfl, rfl, ?len, lenByte_add_lcsByte_mod _, rfl, sum8_dataSpan _, rfl⟩
  case len =>
    calc (lenByte (payloadOf code params)).toNat
        = params.length + 2 := by rw [lenByte_toNat hpayload, payloadOf_length]
      _ = 9 + params.length - 7 := by omega

/-- A string laid out as a command frame whose fixed bytes are right and whose checks are the laws' is the frame of
its code and parameters: LEN, LCS and DCS are what the laws leave (R71 to R74). -/
theorem frameLayout_eq_encodeFrame {len lcs code dcs : Byte} {params : List Byte}
    (hlen : len.toNat = params.length + 2) (hlcs : (len.toNat + lcs.toNat) % 256 = 0)
    (hdcs : sum8 (dirH2D :: payloadOf code params ++ [dcs]) = 0) :
    0x00#8 :: 0x00#8 :: 0xFF#8 :: len :: lcs :: dirH2D :: code :: (params ++ [dcs, 0x00#8]) =
      encodeFrame code params := by
  have hlenByte : len = lenByte (payloadOf code params) := by
    rw [lenByte, payloadOf_length, ← hlen, BitVec.ofNat_toNat, BitVec.setWidth_eq]
  have hlcsByte : lcs = lcsByte (payloadOf code params) := by
    rw [lcsByte, payloadOf_length, ← hlen]
    exact eq_neg8_of_add_mod hlcs
  have hdcsByte : dcs = dcsByte (payloadOf code params) := by
    refine eq_neg8_of_add_mod ?_
    simpa [sum8, Nat.add_assoc] using hdcs
  rw [encodeFrame_eq, ← hlenByte, ← hlcsByte, ← hdcsByte]

/-- A well-formed `D4` frame with a code byte is the frame of its own code and parameters (R113). -/
theorem eq_encodeFrame_of_frameWellFormed {bs : List Byte} (hwf : frameWellFormed bs dirH2D = true)
    (hnine : 9 ≤ bs.length) : bs = encodeFrame (byteAt bs 6) (slice bs 7 (bs.length - 2)) := by
  obtain ⟨s0, s1, s2, len, lcs, dir, code, params, dcs, post, hbs⟩ := exists_frameLayout hnine
  have hlength : bs.length = params.length + 9 := by simp [hbs]
  have hcode : byteAt bs 6 = code := by rw [hbs]; rfl
  have hparams : slice bs 7 (bs.length - 2) = params := by rw [hlength, hbs]; simp [slice]
  have hspan : slice bs 5 (bs.length - 1) = dir :: payloadOf code params ++ [dcs] := by
    rw [hlength, hbs]; simp [slice, payloadOf, List.take_append]
  have hlast : byteAt bs (bs.length - 1) = post := by rw [hlength, hbs]; simp [byteAt]
  obtain ⟨-, -, h0, h1, h2, hlen, hlcs, hdir, hdcs, hpost⟩ := frameWellFormed_iff.mp hwf
  rw [hspan] at hdcs
  rw [hlast] at hpost
  rw [hlength] at hlen
  rw [hbs] at h0 h1 h2 hlen hlcs hdir
  obtain rfl : s0 = 0x00#8 := h0
  obtain rfl : s1 = 0x00#8 := h1
  obtain rfl : s2 = 0xFF#8 := h2
  obtain rfl : dir = dirH2D := hdir
  rw [hcode, hparams, hbs, hpost]
  exact frameLayout_eq_encodeFrame hlen hlcs hdcs

/-- A proper part from the front of a command frame is no well-formed frame: its LEN is that of the whole (R112). -/
theorem frameWellFormed_take_encodeFrame {code : Byte} {params : List Byte} {dir : Byte} {n : Nat}
    (hparams : params.length ≤ 253) (hn : n < 9 + params.length) (hnine : 9 ≤ n) :
    frameWellFormed ((encodeFrame code params).take n) dir = false := by
  refine Bool.eq_false_iff.mpr fun hwf => ?_
  obtain ⟨-, -, -, -, -, hlen, -⟩ := frameWellFormed_iff.mp hwf
  have hbyte : byteAt ((encodeFrame code params).take n) 3 = lenByte (payloadOf code params) := by
    refine byteAt_eq_of_getElem? ?_
    rw [List.getElem?_take_of_lt (by omega)]
    rfl
  rw [hbyte, lenByte_toNat (by rw [payloadOf_length]; omega), payloadOf_length, List.length_take,
    encodeFrame_length] at hlen
  omega

/-! ### Decoding -/

/-- A check that rejects passes exactly where its condition fails. -/
theorem ite_error_eq_ok {ε α : Type} {p : Prop} [Decidable p] {e : ε} {x : Except ε α} {a : α} :
    (if p then .error e else x) = .ok a ↔ ¬ p ∧ x = .ok a := by
  by_cases h : p <;> simp [h]

/-- The start sequence, byte by byte. -/
theorem slice_start_iff {bs : List Byte} (h : 3 ≤ bs.length) : slice bs 0 3 = [0x00#8, 0x00#8, 0xFF#8] ↔
    byteAt bs 0 = 0x00#8 ∧ byteAt bs 1 = 0x00#8 ∧ byteAt bs 2 = 0xFF#8 := by
  match bs, h with
  | b0 :: b1 :: b2 :: rest, _ => simp [slice, byteAt]

/-- Host-to-device bytes decode exactly as a well-formed `D4` frame with a code byte, to the command of that code
and those parameters (R89; log entry 19). -/
theorem decodeTxWire_eq_ok {bs : List Byte} {i : Instr} : decodeTxWire bs = .ok i ↔
    9 ≤ bs.length ∧ frameWellFormed bs dirH2D = true ∧
      i = .cmdFrame (byteAt bs 6) (slice bs 7 (bs.length - 2)) := by
  simp only [decodeTxWire, ite_error_eq_ok, not_lt, not_not, frameWellFormed_iff]
  refine and_congr_right fun hnine => ?_
  rw [slice_start_iff (by omega)]
  have hmax := (byteAt bs 3).isLt
  constructor
  · rintro ⟨⟨h0, h1, h2⟩, hdir, hpost, hlen, hlcs, hdcs, heq⟩
    exact ⟨⟨by omega, by omega, h0, h1, h2, hlen, hlcs, hdir, hdcs, hpost⟩, (Except.ok.inj heq).symm⟩
  · rintro ⟨⟨-, -, h0, h1, h2, hlen, hlcs, hdir, hdcs, hpost⟩, rfl⟩
    exact ⟨⟨h0, h1, h2⟩, hdir, hpost, hlen, hlcs, hdcs, rfl⟩

/-- The frame of a command decodes to that command (R103). -/
theorem decodeTxWire_encodeFrame (code : Byte) {params : List Byte} (h : params.length ≤ 253) :
    decodeTxWire (encodeFrame code params) = .ok (.cmdFrame code params) := by
  refine decodeTxWire_eq_ok.mpr ⟨by rw [encodeFrame_length]; omega, frameWellFormed_encodeFrame code h, ?_⟩
  rw [slice_encodeFrame_params]
  rfl

/-- Device-to-host bytes decode as the acknowledgment or, by their length alone, as a response cut in three (R77,
R79). -/
theorem decodeRxWire_eq_ok {bs : List Byte} {i : Instr} : decodeRxWire bs = .ok i ↔
    (bs = ackConst ∧ i = .ackFrame) ∨ (8 ≤ bs.length ∧
      i = .rspFrame (bs.take 6) (slice bs 6 (bs.length - 2)) (bs.drop (bs.length - 2))) := by
  have htrailer : slice bs (bs.length - 2) bs.length = bs.drop (bs.length - 2) :=
    List.take_of_length_le (by rw [List.length_drop])
  unfold decodeRxWire
  split
  · next h =>
    refine ⟨fun hok => .inl ⟨h, (Except.ok.inj hok).symm⟩, ?_⟩
    rintro (⟨-, rfl⟩ | ⟨hlen, -⟩)
    · rfl
    · exact absurd (h ▸ hlen) (by decide)
  · next h =>
    simp only [ite_error_eq_ok, not_lt, h, false_and, false_or]
    exact and_congr_right fun _ => by
      rw [← htrailer, Except.ok.injEq, eq_comm]
      rfl

/-- A response frame by its three parts decodes to them: it is too long for an acknowledgment (R79). -/
theorem decodeRxWire_append {header payload trailer : List Byte} (hheader : header.length = 6)
    (htrailer : trailer.length = 2) :
    decodeRxWire (header ++ payload ++ trailer) = .ok (.rspFrame header payload trailer) := by
  have hlen : (header ++ payload ++ trailer).length = 6 + payload.length + 2 := by
    simp only [List.length_append, hheader, htrailer]
  refine decodeRxWire_eq_ok.mpr (.inr ⟨by omega, ?_⟩)
  rw [hlen, slice]
  simp [← hheader, List.drop_append]

end Sys2Proof.Machine

namespace Sys2Proof.Proofs

open Sys2Proof Sys2Proof.Machine

/-- Settles O3: the wire lines by the decoder of their direction; a named command by its code; every other line
carries its operands as they are. -/
theorem decodeOfEncodeIsTheInstruction : Obligations.DecodeOfEncodeIsTheInstruction := by
  intro i hwf
  cases i with
  | cmdFrame code params => exact decodeTxWire_encodeFrame code (of_decide_eq_true hwf)
  | rspFrame header payload trailer =>
    obtain ⟨hheader, htrailer⟩ := Bool.and_eq_true_iff.mp hwf
    exact decodeRxWire_append (of_decide_eq_true hheader) (of_decide_eq_true htrailer)
  | firmwareVersionQuery | securityModuleConfiguration | rfRetryConfiguration | passiveTargetListing
  | dataExchange => rfl
  | ackFrame | encode | isAck | strip | wellFormed | execute | reset => rfl

/-- Settles O4: a decoded command frame is the frame of its own code and parameters, and short enough; a decoded
response is its three parts put together again. -/
theorem wireBytesThatDecodeAreTheEncoding : Obligations.WireBytesThatDecodeAreTheEncoding := by
  rintro _ i ⟨bs, rfl | rfl⟩ hdecode
  · obtain ⟨hnine, hwf, rfl⟩ := decodeTxWire_eq_ok.mp hdecode
    have hbs := eq_encodeFrame_of_frameWellFormed hwf hnine
    have hlen := congrArg List.length hbs
    obtain ⟨-, hmax, -⟩ := frameWellFormed_iff.mp hwf
    rw [encodeFrame_length] at hlen
    exact ⟨congrArg Line.txWire hbs.symm, decide_eq_true (by omega)⟩
  · rcases decodeRxWire_eq_ok.mp hdecode with ⟨rfl, rfl⟩ | ⟨hlen, rfl⟩
    · exact ⟨rfl, rfl⟩
    · have hheader : (bs.take 6).length = 6 := by rw [List.length_take]; omega
      have htrailer : (bs.drop (bs.length - 2)).length = 2 := by rw [List.length_drop]; omega
      exact ⟨congrArg Line.rxWire (take_append_slice_append_drop bs (by omega)),
        Bool.and_eq_true_iff.mpr ⟨decide_eq_true hheader, decide_eq_true htrailer⟩⟩

/-- Settles O5: the decoder's checks are those of the predicate, and what passes them is a command frame. -/
theorem txWireDecodesExactlyWhenWellFormed : Obligations.TxWireDecodesExactlyWhenWellFormed := by
  intro bs
  constructor
  · rintro ⟨code, params, hdecode⟩
    obtain ⟨hnine, hwf, -⟩ := decodeTxWire_eq_ok.mp hdecode
    exact ⟨hnine, hwf⟩
  · rintro ⟨hnine, hwf⟩
    exact ⟨_, _, decodeTxWire_eq_ok.mpr ⟨hnine, hwf, rfl⟩⟩

/-- Settles O10: each of the two laws is a sum that is 0 modulo 256, and a sum changes by less than 256 with one of
its bytes; DCS is made of a sum, which no reordering changes. -/
theorem singleByteErrorsAreDetected : Obligations.SingleByteErrorsAreDetected := by
  refine ⟨?data, ?header, fun payload payload' hperm => by rw [dcsByte, dcsByte, sumBytes_perm hperm]⟩
  case data =>
    rintro code params _ i b rfl hlow hhigh hb
    have hslice : slice ((encodeFrame code params).set i b) 5 (8 + params.length) =
        (slice (encodeFrame code params) 5 (8 + params.length)).set (i - 5) b := by
      rw [slice, slice, List.drop_set, if_neg (by omega), List.take_set]
    have hold : (slice (encodeFrame code params) 5 (8 + params.length))[i - 5]? = (encodeFrame code params)[i]? := by
      rw [slice, List.getElem?_take_of_lt (by omega), List.getElem?_drop, Nat.add_sub_cancel' hlow]
    have hsum : sum8 (slice (encodeFrame code params) 5 (8 + params.length)) = 0 := by
      rw [slice_encodeFrame_dataSpan, sum8_dataSpan]
    have hlen : i - 5 < (slice (encodeFrame code params) 5 (8 + params.length)).length := by
      rw [slice, List.length_take, List.length_drop, encodeFrame_length]
      omega
    rw [hslice]
    exact sum8_set_ne_zero hlen hsum (hold ▸ hb)
  case header =>
    rintro code params _ b rfl
    have hlaw := lenByte_add_lcsByte_mod (payloadOf code params)
    have hlen := (lenByte (payloadOf code params)).isLt
    have hlcs := (lcsByte (payloadOf code params)).isLt
    have hnew := b.isLt
    constructor
    · intro hb hsum
      refine hb (congrArg some (BitVec.eq_of_toNat_eq ?_))
      have hsum' : (b.toNat + (lcsByte (payloadOf code params)).toNat) % 256 = 0 := hsum
      omega
    · intro hb hsum
      refine hb (congrArg some (BitVec.eq_of_toNat_eq ?_))
      have hsum' : ((lenByte (payloadOf code params)).toNat + b.toNat) % 256 = 0 := hsum
      omega

/-- Settles O15. -/
theorem stripUndoesEncode : Obligations.StripUndoesEncode :=
  ⟨stripFrame_encodeFrame, fun _ _ _ _ => encodeFrame_inj⟩

/-- Settles O17: the frames `ENCODE` gives by their layout, and differing from the acknowledgment in DIR at the
latest; the converse from what the laws leave of the checks. -/
theorem wellFormedFramesAreTheEncodedOnes : Obligations.WellFormedFramesAreTheEncodedOnes := by
  refine ⟨fun code params h => ⟨frameWellFormed_encodeFrame code h, fun hack => ?_⟩,
    fun bs => eq_encodeFrame_of_frameWellFormed⟩
  have hdir : dirH2D = 0x00#8 := Option.some.inj (congrArg (·[5]?) hack)
  exact absurd hdir (by decide)

/-- Settles O6: the table words and the wire bytes, each decoded. -/
theorem specWordsDecode : Obligations.SpecWordsDecode := by
  refine ⟨?_, ?_, ?_, ?_, ?_, ?_, ?_, ?_, ?_, ?_, ?_, ?_⟩ <;> decide

/-- Settles O9: all four laws from `neg8` as a natural number. -/
theorem negationLaws : Obligations.NegationLaws := by
  refine ⟨neg8_toNat, add_neg8_mod, fun b => ?involution, fun b => ?zero⟩
  case involution =>
    have hsum := add_neg8_mod b.toNat
    rw [Nat.add_comm] at hsum
    exact (eq_neg8_of_add_mod hsum).symm
  case zero =>
    rw [neg8_eq_zero_iff, Nat.mod_eq_of_lt b.isLt]
    exact BitVec.toNat_inj (y := 0x00#8)

/-- Settles O16: a stripped payload has the string's length less eight, one less than what LEN would be. -/
theorem frameValueOfAStrippedResponse : Obligations.FrameValueOfAStrippedResponse := by
  intro bs payload hstrip
  have hlen : 8 ≤ bs.length := by
    by_contra hshort
    simp [(stripFrame_eq_none bs).mpr (by omega)] at hstrip
  rw [stripFrame_eq_some bs hlen, Option.some.injEq] at hstrip
  have hpayload : payload.length = bs.length - 8 := by
    rw [← hstrip, slice, List.length_take, List.length_drop]
    omega
  refine ⟨rfl, ?_⟩
  simp only [frameValue]
  omega

/-- Settles O49. -/
theorem resultCodes : Obligations.ResultCodes := by
  refine ⟨rfl, rfl, rfl, rfl, rfl, fun r => ?_, fun r r' => ?_⟩
  · cases r <;> decide
  · cases r <;> cases r' <;> decide

/-- Settles O50: the two bounds say the same of the parameters, and a fitting frame's LEN is below 256. -/
theorem operandBounds : Obligations.OperandBounds := by
  intro c params hlegal
  obtain ⟨hmin, hmax⟩ := hlegal
  have hparam := commandFits_iff_le_paramMax ⟨hmin, hmax⟩ (params := params)
  refine ⟨hparam, hparam.trans ?payload, fun hfits code => ?len⟩
  case payload =>
    rw [paramMax, payloadMax]
    omega
  case len =>
    have hle := hparam.mp hfits
    rw [paramMax] at hle
    rw [lenByte_toNat (by rw [payloadOf_length]; omega), payloadOf_length]
    omega

end Sys2Proof.Proofs
end

section
/-! One step (R59, R64): whose move it is, and the host's next line as the instruction it decodes to. -/

namespace Sys2Proof.Machine

variable {s : State}

theorem nextMove_of_schedule {m : Move} {ms : List Move} (h : s.schedule = m :: ms) : nextMove s = m := by
  simp only [nextMove, h]

/-- With an empty schedule the block goes first (R65; log entry 3). -/
theorem nextMove_of_blockReady (h : s.schedule = []) (hready : blockReady s = true) : nextMove s = .block := by
  simp [nextMove, h, hready]

theorem nextMove_of_not_blockReady (h : s.schedule = []) (hready : blockReady s = false) : nextMove s = .host := by
  simp [nextMove, h, hready]

theorem dropMove_of_schedule {m : Move} {ms : List Move} (h : s.schedule = m :: ms) :
    dropMove s = { s with schedule := ms } := by
  rw [dropMove, h, List.tail_cons]

theorem dropMove_of_nil (h : s.schedule = []) : dropMove s = s := by
  rw [dropMove, h, List.tail_nil, ← h]

theorem step_of_host (h : nextMove s = .host) : step s = hostStep (dropMove s) := by
  simp only [step, h]

theorem step_of_ne_host (h : nextMove s ≠ .host) : step s = moveEffect (nextMove s) (dropMove s) := by
  unfold step
  cases hm : nextMove s with
  | host => exact absurd hm h
  | block | devPush | rxTimeout | txReady | read | release | reset => rfl

/-- The host's next line, if it decodes, is run. -/
theorem hostStep_of_decode {l : Line} {rest : List Line} {i : Instr} (hprogram : s.program = l :: rest)
    (hdecode : decode l = .ok i) : hostStep s = exec i s := by
  simp [hostStep, fetch, hprogram, hdecode]

theorem hostStep_of_nil (h : s.program = []) : hostStep s = .next s := by
  simp [hostStep, fetch, h]

/-- A table word decodes to the instruction of its line. -/
theorem decodeTableWord_eq_some {nbits w : Nat} {i : Instr} :
    decodeTableWord nbits w = some i ↔ decode (tableLine nbits w) = .ok i := by
  unfold decodeTableWord
  cases decode (tableLine nbits w) <;> simp [Except.toOption]

/-- The block has nothing to do, no move is scheduled and the program is over: nothing changes. -/
theorem step_of_quiet (hschedule : s.schedule = []) (hready : blockReady s = false) (hprogram : s.program = []) :
    step s = .next s := by
  rw [step_of_host (nextMove_of_not_blockReady hschedule hready), dropMove_of_nil hschedule,
    hostStep_of_nil hprogram]

end Sys2Proof.Machine

namespace Sys2Proof.Proofs

open Sys2Proof Sys2Proof.Machine

/-- Settles O1: the host's move runs the line in front; `withFetchWord` puts the word's line and that move in
front. -/
theorem stepRunsTheDecodedInstruction : Obligations.StepRunsTheDecodedInstruction := by
  constructor
  · intro s l rest i hmove hprogram hdecode
    rw [step_of_host hmove]
    exact hostStep_of_decode (s := dropMove s) hprogram hdecode
  · intro s nbits w i hword
    have hrun := hostStep_of_decode (s := dropMove (s.withFetchWord nbits w)) (l := tableLine nbits w) rfl
      (decodeTableWord_eq_some.mp hword)
    rw [step_of_host (nextMove_of_schedule (s := s.withFetchWord nbits w) rfl), hrun]
    rfl

/-- Settles O2: by what the next move is in each of the three cases. -/
theorem stepTakesTheNextMove : Obligations.StepTakesTheNextMove := by
  refine ⟨fun s m ms hschedule hm => ?scheduled, fun s hschedule hready => ?block,
    fun s hschedule hready hprogram => step_of_quiet hschedule hready hprogram⟩
  case scheduled =>
    have hnext := nextMove_of_schedule hschedule
    rw [step_of_ne_host (hnext ▸ hm), hnext, dropMove_of_schedule hschedule]
  case block =>
    have hnext := nextMove_of_blockReady hschedule hready
    rw [step_of_ne_host (by rw [hnext]; decide), hnext, dropMove_of_nil hschedule]
    rfl

end Sys2Proof.Proofs
end

section
/-! The instructions: requests at the command port with their waits and refusals (R31, R87, R157), RESET (R175), the
wire frames (R70), and what every instruction leaves as it is. -/

namespace Sys2Proof.Machine

variable {s t : State}

/-! ### Requests -/

/-- Nobody else holds the block: it is free, or the caller's own (R157, R183). -/
theorem heldByOther_eq_false_iff {caller : Caller} :
    heldByOther s caller = false ↔ s.owner = none ∨ s.owner = some caller := by
  unfold heldByOther
  cases s.owner <;> simp

section
variable {caller : Caller} {code : Byte} {params : List Byte} {explen : Nat}

theorem requestExchange_secondCaller {other : Caller} (howner : s.owner = some other) (hne : other ≠ caller) :
    requestExchange caller code params explen s = .refused .secondCaller := by
  simp [requestExchange, heldByOther, howner, hne]

/-- A request of the caller whose exchange is in progress waits (R31). -/
theorem requestExchange_waits (howner : s.owner = none ∨ s.owner = some caller) (hbusy : s.phase ≠ .idle) :
    requestExchange caller code params explen s = .next s :=
  requestExchange_eq_next.mpr ⟨howner, .inl ⟨hbusy, rfl⟩⟩

theorem requestExchange_commandTooLong (howner : s.owner = none ∨ s.owner = some caller) (hidle : s.phase = .idle)
    (hlong : s.cfg.bufCap < 9 + params.length) :
    requestExchange caller code params explen s = .refused .commandTooLong := by
  simp [requestExchange, heldByOther_eq_false_iff.mpr howner, busy, hidle, commandFits, Nat.not_le.mpr hlong]

/-- The command's bound is decided before the response's (R159). -/
theorem requestExchange_responseTooLong (howner : s.owner = none ∨ s.owner = some caller) (hidle : s.phase = .idle)
    (hfits : 9 + params.length ≤ s.cfg.bufCap) (hlong : s.cfg.bufCap < explen) :
    requestExchange caller code params explen s = .refused .responseTooLong := by
  simp [requestExchange, heldByOther_eq_false_iff.mpr howner, busy, hidle, commandFits, hfits, responseFits, rspMax,
    Nat.not_le.mpr hlong]

/-- Each of the five named commands is the exchange of its code byte (R87). -/
theorem exec_of_named {i : Instr}
    (h : i ∈ [Instr.firmwareVersionQuery caller params explen, .securityModuleConfiguration caller params explen,
      .rfRetryConfiguration caller params explen, .passiveTargetListing caller params explen,
      .dataExchange caller params explen]) :
    ∃ code, ∀ s, exec i s = requestExchange caller code params explen s := by
  simp only [List.mem_cons, List.not_mem_nil, or_false] at h
  rcases h with rfl | rfl | rfl | rfl | rfl <;> exact ⟨_, fun _ => rfl⟩

/-- A request has no next state but the caller's own block's: the one that waits, or the accepted one. -/
theorem requestExchange_idle (hidle : s.phase = .idle) (h : requestExchange caller code params explen s = .next t) :
    9 + params.length ≤ s.cfg.bufCap ∧ explen ≤ s.cfg.bufCap ∧ t = retire (accept caller code params explen s) := by
  obtain ⟨-, ⟨hbusy, -⟩ | ⟨-, haccept⟩⟩ := requestExchange_eq_next.mp h
  · exact absurd hidle hbusy
  · exact haccept

theorem requestExchange_busy (hbusy : s.phase ≠ .idle) (h : requestExchange caller code params explen s = .next t) :
    t = s := by
  obtain ⟨-, ⟨-, hwait⟩ | ⟨hidle, -⟩⟩ := requestExchange_eq_next.mp h
  · exact hwait
  · exact absurd hidle hbusy

end

/-! ### Range reads -/

theorem memRead_cons {m : Memory} {a n : Nat} {b : Byte} {bs : List Byte} (hb : memLookup m a = some b)
    (hbs : memRead m (a + 1) n = some bs) : memRead m a (n + 1) = some (b :: bs) := by
  simp only [memRead, hb, hbs, Option.map_some]

/-- The range behind the first `k` bytes of a range. -/
theorem memRead_drop {m : Memory} {a n : Nat} {bs : List Byte} (h : memRead m a n = some bs) {k : Nat} (hk : k ≤ n) :
    memRead m (a + k) (n - k) = some (bs.drop k) := by
  obtain ⟨hlen, hbytes⟩ := (memRead_eq_some_iff _ _ _ _).mp h
  refine (memRead_eq_some_iff _ _ _ _).mpr ⟨by rw [List.length_drop, hlen], fun i hi => ?_⟩
  rw [List.length_drop] at hi
  rw [Nat.add_assoc, hbytes (k + i) (by omega), List.getElem_drop]

/-- The first `k` bytes of a range. -/
theorem memRead_take {m : Memory} {a n : Nat} {bs : List Byte} (h : memRead m a n = some bs) {k : Nat} (hk : k ≤ n) :
    memRead m a k = some (bs.take k) := by
  obtain ⟨hlen, hbytes⟩ := (memRead_eq_some_iff _ _ _ _).mp h
  have hk' : (bs.take k).length = k := by rw [List.length_take]; omega
  refine (memRead_eq_some_iff _ _ _ _).mpr ⟨hk', fun i hi => ?_⟩
  rw [List.getElem_take]
  exact hbytes i (by omega)

theorem memLookup_of_memRead {m : Memory} {n i : Nat} {bs : List Byte} (h : memRead m 0 n = some bs) (hi : i < n) :
    ∃ b, bs[i]? = some b ∧ memLookup m i = some b := by
  obtain ⟨hlen, hbytes⟩ := (memRead_eq_some_iff _ _ _ _).mp h
  have hi' : i < bs.length := hlen ▸ hi
  have hb := hbytes i hi'
  rw [Nat.zero_add] at hb
  exact ⟨bs[i], List.getElem?_eq_getElem hi', hb⟩

/-! ### The wire frames -/

/-- The SEND steps that are left, in a row: they answer exactly when what is left of the frame can be read, and then
it has been sent and the block waits for the acknowledgment (R123). -/
theorem sendSteps_rest_eq_next {n : Nat} (hn : s.idx + (n + 1) = s.flen) : sendSteps (n + 1) s = .next t ↔
    s.flen ≤ s.cfg.bufCap ∧ ∃ bs, memRead s.buf s.idx (n + 1) = some bs ∧
      t = { s with txlog := s.txlog ++ bs, phase := .waitAck, idx := 0 } := by
  rw [sendSteps_succ_eq_next]
  induction n generalizing s t with
  | zero =>
    constructor
    · rintro ⟨u, hu, hut⟩
      obtain ⟨b, hb, rfl⟩ := sendStep_eq_next.mp hu
      obtain ⟨hcap, hlookup⟩ := bufByte_eq_ok.mp hb
      rw [if_neg (by omega)] at hut
      exact ⟨by omega, [b], memRead_cons hlookup rfl, (Host.Outcome.next.inj hut).symm⟩
    · rintro ⟨hcap, bs, hbs, rfl⟩
      obtain ⟨b, cs, rfl, hb, hcs⟩ := exists_cons_of_memRead_succ hbs
      obtain rfl : [] = cs := Option.some.inj hcs
      refine ⟨_, sendStep_eq_next.mpr ⟨b, bufByte_eq_ok.mpr ⟨by omega, hb⟩, rfl⟩, ?_⟩
      rw [if_neg (by omega)]
      rfl
  | succ n ih =>
    have hrest : s.idx + 1 + (n + 1) = s.flen := by omega
    have hnext (b : Byte) (v : State) := ih (s := nextIdx (txByte b s)) (t := v) hrest
    constructor
    · rintro ⟨u, hu, hut⟩
      obtain ⟨b, hb, rfl⟩ := sendStep_eq_next.mp hu
      obtain ⟨-, hlookup⟩ := bufByte_eq_ok.mp hb
      rw [if_pos (by omega)] at hut
      obtain ⟨hcap, cs, hcs, rfl⟩ := (hnext b _).mp (sendSteps_succ_eq_next.mp hut)
      refine ⟨hcap, b :: cs, memRead_cons hlookup hcs, ?_⟩
      rw [List.append_cons]
      rfl
    · rintro ⟨hcap, bs, hbs, rfl⟩
      obtain ⟨b, cs, rfl, hb, hcs⟩ := exists_cons_of_memRead_succ hbs
      refine ⟨_, sendStep_eq_next.mpr ⟨b, bufByte_eq_ok.mpr ⟨by omega, hb⟩, rfl⟩, ?_⟩
      have hsent := sendSteps_succ_eq_next.mpr ((hnext b _).mpr ⟨hcap, cs, hcs, rfl⟩)
      rw [if_pos (by omega), List.append_cons]
      exact hsent

theorem sendingFrame_iff {code : Byte} {params : List Byte} : sendingFrame code params s = true ↔
    s.phase = .send ∧ s.txReady = true ∧ s.idx < s.flen ∧
      memRead s.buf 0 s.flen = some (encodeFrame code params) := by
  simp only [sendingFrame, Bool.and_eq_true, decide_eq_true_iff, and_assoc]

/-- A command frame crosses the wire: exactly when `BUF` holds it whole, what is left of it is sent (R71, R123). -/
theorem exec_cmdFrame_sending {code : Byte} {params : List Byte} (h : sendingFrame code params s = true) :
    exec (.cmdFrame code params) s = .next t ↔ s.flen ≤ s.cfg.bufCap ∧
      t = { s with
        txlog := s.txlog ++ (encodeFrame code params).drop s.idx
        phase := .waitAck
        idx := 0
        program := s.program.tail } := by
  obtain ⟨-, -, hidx, hframe⟩ := sendingFrame_iff.mp h
  obtain ⟨n, hn⟩ : ∃ n, s.flen - s.idx = n + 1 := Nat.exists_eq_add_one.mpr (by omega)
  have hrest := memRead_drop hframe hidx.le
  rw [Nat.zero_add, hn] at hrest
  have hsteps (u : State) := sendSteps_rest_eq_next (t := u) (show s.idx + (n + 1) = s.flen by omega)
  simp only [hrest, Option.some.injEq, exists_eq_left'] at hsteps
  simp only [exec, execCmdFrame, h, if_true, hn]
  cases hrun : sendSteps (n + 1) s with
  | next u =>
    obtain ⟨hcap, rfl⟩ := (hsteps u).mp hrun
    simp only [hcap, true_and, Host.Outcome.next.injEq]
    exact eq_comm
  | fault f =>
    simp only [reduceCtorEq, false_iff]
    rintro ⟨hcap, -⟩
    exact absurd (hrun.symm.trans ((hsteps _).mpr ⟨hcap, rfl⟩)) (by simp)
  | refused r =>
    simp only [reduceCtorEq, false_iff]
    rintro ⟨hcap, -⟩
    exact absurd (hrun.symm.trans ((hsteps _).mpr ⟨hcap, rfl⟩)) (by simp)

/-- A command frame that the block is not sending waits (R86, R164). -/
theorem exec_cmdFrame_waits {code : Byte} {params : List Byte} (h : sendingFrame code params s = false) :
    exec (.cmdFrame code params) s = .next s := by
  simp [exec, execCmdFrame, h]

/-! ### Every instruction -/

/-- Whatever an instruction does: it leaves the block's registers, buffers and parameters as they are, but for the
PHASE and IDX of a frame that is sent; or it is an accepted request; or it is RESET. -/
theorem exec_changes {i : Instr} (h : exec i s = .next t) :
    t = { s with
      phase := t.phase, idx := t.idx, rxq := t.rxq, txlog := t.txlog, program := t.program, answer := t.answer }
    ∨ (s.phase = .idle ∧ ∃ caller code params explen, 9 + params.length ≤ s.cfg.bufCap ∧ explen ≤ s.cfg.bufCap ∧
        t = retire (accept caller code params explen s))
    ∨ (i = .reset ∧ t = retire (resetBlock s)) := by
  cases hr : requester i with
  | none =>
    by_cases hi : i = .reset
    · subst hi
      exact .inr (.inr ⟨rfl, (Host.Outcome.next.inj h).symm⟩)
    · exact .inl (exec_frame hr hi h)
  | some caller =>
    obtain ⟨code, params, explen, hexec⟩ := exec_of_requester hr
    rw [hexec] at h
    by_cases hidle : s.phase = .idle
    · exact .inr (.inl ⟨hidle, caller, code, params, explen, requestExchange_idle hidle h⟩)
    · rw [requestExchange_busy hidle h]
      exact .inl rfl

theorem exec_txReady {i : Instr} (h : exec i s = .next t) : t.txReady = s.txReady := by
  rcases exec_changes h with hframe | ⟨-, _, _, _, _, -, -, rfl⟩ | ⟨-, rfl⟩
  · rw [hframe]
  · rfl
  · rfl

theorem exec_cfg {i : Instr} (h : exec i s = .next t) : t.cfg = s.cfg := by
  rcases exec_changes h with hframe | ⟨-, _, _, _, _, -, -, rfl⟩ | ⟨-, rfl⟩
  · rw [hframe]
  · rfl
  · rfl

/-- An instruction keeps the canonical form of `BUF`'s storage. -/
theorem exec_wf {i : Instr} (h : exec i s = .next t) (hwf : Memory.wf s.buf = true) : Memory.wf t.buf = true := by
  rcases exec_changes h with hframe | ⟨-, _, code, params, _, -, -, rfl⟩ | ⟨-, rfl⟩
  · rw [hframe]
    exact hwf
  · exact memWrite_wf s.buf 0 (encodeFrame code params) hwf
  · rfl

/-- No instruction but a request and RESET changes who holds the block (log entry 7). -/
theorem exec_owner {i : Instr} (hi : i ≠ .reset) (hr : requester i = none ∨ s.phase ≠ .idle)
    (h : exec i s = .next t) : t.owner = s.owner := by
  cases hreq : requester i with
  | none => rw [exec_frame hreq hi h]
  | some caller =>
    obtain ⟨code, params, explen, hexec⟩ := exec_of_requester hreq
    rw [hexec] at h
    rw [requestExchange_busy (hr.resolve_left (by simp [hreq])) h]

end Sys2Proof.Machine

namespace Sys2Proof.Proofs

open Sys2Proof Sys2Proof.Machine

/-- Settles O22: each of the five is the accepted request of its code. -/
theorem namedCommandsAreAccepted : Obligations.NamedCommandsAreAccepted :=
  fun _ _ _ _ hidle hcontract =>
    ⟨requestExchange_accepted _ hidle hcontract, requestExchange_accepted _ hidle hcontract,
      requestExchange_accepted _ hidle hcontract, requestExchange_accepted _ hidle hcontract,
      requestExchange_accepted _ hidle hcontract⟩

/-- Settles O23: each refusal by the lemma of its operation; where nothing is refused, a busy block's request
waits. -/
theorem refusalsOfTheContract : Obligations.RefusalsOfTheContract := by
  refine ⟨fun s caller code params explen howner hidle => ⟨?command, ?response⟩, fun s caller other _ _ _ => ?second,
    fun s caller _ _ _ => ?waits, fun s code params hlong => ?encode, fun _ _ => exec_strip_tooShort,
    fun _ => readPort_rspPayload_tooShort, fun _ _ => readPort_ackByte_unwritten⟩
  case command => exact requestExchange_commandTooLong howner hidle
  case response => exact requestExchange_responseTooLong howner hidle
  case second => exact requestExchange_secondCaller
  case waits => exact requestExchange_waits
  case encode => exact exec_encode_tooLong fun hfits => absurd (of_decide_eq_true hfits) (Nat.not_le.mpr hlong)

/-- Settles O24: each of the five is a request, so it waits and is refused as one. -/
theorem namedCommandsWaitLikeExecute : Obligations.NamedCommandsWaitLikeExecute := by
  intro s caller params explen i hi
  obtain ⟨code, hexec⟩ := exec_of_named hi
  rw [hexec s]
  exact ⟨requestExchange_waits, fun _ => requestExchange_secondCaller, requestExchange_commandTooLong,
    requestExchange_responseTooLong⟩

/-- Settles O18. -/
theorem ackFrameEntersTheQueue : Obligations.AckFrameEntersTheQueue := fun _ => rfl

/-- Settles O19: the queue takes the three parts put together. -/
theorem rspFrameEntersTheQueue : Obligations.RspFrameEntersTheQueue := by
  intro s header payload trailer
  have hqueue : s.rxq ++ header ++ payload ++ trailer = s.rxq ++ (header ++ payload ++ trailer) := by
    simp only [List.append_assoc]
  rw [hqueue]
  rfl

/-- Settles O20: the conditions are those of `sendingFrame`; in the second clause one of them fails. -/
theorem cmdFrameCrossesTheWire : Obligations.CmdFrameCrossesTheWire := by
  constructor
  · intro s code params hphase hready hidx hcap hframe
    exact (exec_cmdFrame_sending (sendingFrame_iff.mpr ⟨hphase, hready, hidx, hframe⟩)).mpr ⟨hcap, rfl⟩
  · intro s code params hnot
    refine exec_cmdFrame_waits (Bool.eq_false_iff.mpr fun hsending => ?_)
    obtain ⟨hphase, hready, -, hframe⟩ := sendingFrame_iff.mp hsending
    rcases hnot with hne | hunready | hne
    · exact hne hphase
    · exact absurd (hunready.symm.trans hready) Bool.false_ne_true
    · exact hne hframe

/-- Settles O35: every field is that of the reset block; no byte of `ACKBUF` counts as written. -/
theorem resetEffect : Obligations.ResetEffect := by
  intro s
  have hunwritten : ∀ i : Fin 6, (resetBlock s).ackWritten[i] = false := fun i => by simp
  exact ⟨resetBlock s, rfl, rfl, rfl, rfl, rfl, rfl, rfl, rfl, fun _ => rfl,
    fun i => readPort_ackByte_unwritten (hunwritten i), rfl, rfl, rfl, rfl, rfl, rfl, rfl⟩

end Sys2Proof.Proofs
end

section
/-! The moves (R64): the block's own event as one of nine named cases, and what each move leaves as it is. -/

namespace Sys2Proof.Machine

variable {s t : State}

/-! ### The block's own event -/

/-- The block's own move, by what happens in it (R64): it waits, sends a byte or the last one (R123), takes an
acknowledgment byte or judges the sixth (R125, R126), or takes a response byte or the last one (R128, R129). -/
inductive BlockEvent (s : State) : State → Prop where
  | waits (hready : blockReady s = false) : BlockEvent s s
  | sends {b : Byte} (hphase : s.phase = .send) (hready : s.txReady = true) (hbyte : bufByte s s.idx = .ok b)
      (hmore : s.idx + 1 < s.flen) : BlockEvent s (nextIdx (txByte b s))
  | sendsLast {b : Byte} (hphase : s.phase = .send) (hready : s.txReady = true) (hbyte : bufByte s s.idx = .ok b)
      (hlast : s.flen ≤ s.idx + 1) : BlockEvent s (enterPhase .waitAck (txByte b s))
  | takesAck {b : Byte} {rest : List Byte} (hphase : s.phase = .waitAck) (hqueue : s.rxq = b :: rest)
      (hmore : s.idx + 1 < 6) : BlockEvent s (nextIdx (storeAck s.idx b (rxPop s)))
  | mismatch {b : Byte} {rest : List Byte} (hphase : s.phase = .waitAck) (hqueue : s.rxq = b :: rest)
      (hsixth : s.idx = 5) (hack : (s.ackBuf.setIfInBounds s.idx b).toList ≠ ackConst) :
      BlockEvent s (complete .ackMismatch (storeAck s.idx b (rxPop s)))
  | acknowledgedEmpty {b : Byte} {rest : List Byte} (hphase : s.phase = .waitAck) (hqueue : s.rxq = b :: rest)
      (hsixth : s.idx = 5) (hack : (s.ackBuf.setIfInBounds s.idx b).toList = ackConst) (hexp : s.exp = 0) :
      BlockEvent s (complete .ok (storeAck s.idx b (rxPop s)))
  | acknowledged {b : Byte} {rest : List Byte} (hphase : s.phase = .waitAck) (hqueue : s.rxq = b :: rest)
      (hsixth : s.idx = 5) (hack : (s.ackBuf.setIfInBounds s.idx b).toList = ackConst) (hexp : 1 ≤ s.exp) :
      BlockEvent s (enterPhase .readRsp (storeAck s.idx b (rxPop s)))
  | takesRsp {b : Byte} {rest : List Byte} (hphase : s.phase = .readRsp) (hqueue : s.rxq = b :: rest)
      (hinside : s.idx < s.cfg.bufCap) (hmore : s.idx + 1 < s.exp) :
      BlockEvent s (nextIdx (setRspLen (s.idx + 1) (storeBuf s.idx [b] (rxPop s))))
  | takesLast {b : Byte} {rest : List Byte} (hphase : s.phase = .readRsp) (hqueue : s.rxq = b :: rest)
      (hinside : s.idx < s.cfg.bufCap) (hlast : s.exp ≤ s.idx + 1) :
      BlockEvent s (complete .ok (setRspLen (s.idx + 1) (storeBuf s.idx [b] (rxPop s))))

theorem ackVerdict_of_mismatch (h : s.ackBuf.toList ≠ ackConst) : ackVerdict s = complete .ackMismatch s := by
  rw [ackVerdict_eq, if_pos h]

theorem ackVerdict_of_empty (h : s.ackBuf.toList = ackConst) (hexp : s.exp = 0) :
    ackVerdict s = complete .ok s := by
  rw [ackVerdict_eq, if_neg (not_not.mpr h), if_pos hexp]

theorem ackVerdict_of_response (h : s.ackBuf.toList = ackConst) (hexp : 1 ≤ s.exp) :
    ackVerdict s = enterPhase .readRsp s := by
  rw [ackVerdict_eq, if_neg (not_not.mpr h), if_neg (Nat.one_le_iff_ne_zero.mp hexp)]

/-- The block's move answers a next state exactly by one of the events. -/
theorem blockStep_eq_next_iff : blockStep s = .next t ↔ BlockEvent s t := by
  constructor
  · intro h
    rcases blockStep_eq_next.mp h with ⟨hready, rfl⟩ | ⟨hphase, hready, hsend⟩ | ⟨hphase, b, rest, hqueue, hack⟩
      | ⟨hphase, b, rest, hqueue, hrsp⟩
    · exact .waits hready
    · obtain ⟨b, hbyte, rfl⟩ := sendStep_eq_next.mp hsend
      split
      · next hmore => exact .sends hphase hready hbyte hmore
      · next hlast => exact .sendsLast hphase hready hbyte (not_lt.mp hlast)
    · obtain ⟨hidx, rfl⟩ := ackByteStep_eq_next.mp hack
      split
      · next hmore => exact .takesAck hphase hqueue hmore
      · next hlast =>
        have hsixth : s.idx = 5 := by omega
        rw [ackVerdict_eq]
        split
        · next hne => exact .mismatch hphase hqueue hsixth hne
        · next heq =>
          have heq := not_not.mp heq
          split
          · next hexp => exact .acknowledgedEmpty hphase hqueue hsixth heq hexp
          · next hexp => exact .acknowledged hphase hqueue hsixth heq (Nat.one_le_iff_ne_zero.mpr hexp)
    · obtain ⟨hinside, rfl⟩ := rspByteStep_eq_next.mp hrsp
      split
      · next hmore => exact .takesRsp hphase hqueue hinside hmore
      · next hlast => exact .takesLast hphase hqueue hinside (not_lt.mp hlast)
  · intro h
    cases h with
    | waits hready => exact blockStep_waits hready
    | sends hphase hready hbyte hmore =>
      exact (moveEffect_block_send hphase hready hbyte).trans (by rw [if_pos hmore])
    | sendsLast hphase hready hbyte hlast =>
      exact (moveEffect_block_send hphase hready hbyte).trans (by rw [if_neg (not_lt.mpr hlast)])
    | takesAck hphase hqueue hmore =>
      exact (moveEffect_block_waitAck hphase (by omega) hqueue).trans (by rw [if_pos hmore])
    | mismatch hphase hqueue hsixth hack =>
      exact (moveEffect_block_waitAck hphase (by omega) hqueue).trans
        (by rw [if_neg (by omega), ackVerdict_of_mismatch (s := storeAck s.idx _ (rxPop s)) hack])
    | acknowledgedEmpty hphase hqueue hsixth hack hexp =>
      exact (moveEffect_block_waitAck hphase (by omega) hqueue).trans
        (by rw [if_neg (by omega), ackVerdict_of_empty (s := storeAck s.idx _ (rxPop s)) hack hexp])
    | acknowledged hphase hqueue hsixth hack hexp =>
      exact (moveEffect_block_waitAck hphase (by omega) hqueue).trans
        (by rw [if_neg (by omega), ackVerdict_of_response (s := storeAck s.idx _ (rxPop s)) hack hexp])
    | takesRsp hphase hqueue hinside hmore =>
      exact (moveEffect_block_readRsp hphase hinside hqueue).trans (by rw [if_pos hmore])
    | takesLast hphase hqueue hinside hlast =>
      exact (moveEffect_block_readRsp hphase hinside hqueue).trans (by rw [if_neg (not_lt.mpr hlast)])

/-! ### What each move leaves as it is -/

theorem rxTimeout_of_waitAck (hmay : s.cfg.transportMayTimeOut = true) (hrxq : s.rxq = [])
    (hphase : s.phase = .waitAck) : rxTimeout s = complete .ackTimeout s := by
  simp [rxTimeout, hmay, hrxq, hphase]

theorem rxTimeout_of_readRsp (hmay : s.cfg.transportMayTimeOut = true) (hrxq : s.rxq = [])
    (hphase : s.phase = .readRsp) : rxTimeout s = complete .rspTimeout s := by
  simp [rxTimeout, hmay, hrxq, hphase]

/-- Where a timeout is not enabled, it has no effect (R158; log entry 14). -/
theorem rxTimeout_of_not_enabled
    (h : s.cfg.transportMayTimeOut = false ∨ s.rxq ≠ [] ∨ s.phase = .idle ∨ s.phase = .send) : rxTimeout s = s := by
  rcases rxTimeout_cases s with ⟨hmay, hrxq, hphase, -⟩ | ⟨hmay, hrxq, hphase, -⟩ | ⟨-, hsame⟩
  · simp [hmay, hrxq, hphase] at h
  · simp [hmay, hrxq, hphase] at h
  · exact hsame

theorem releaseResult_of_idle (h : s.phase = .idle) : releaseResult s = { s with owner := none } := if_pos h

theorem releaseResult_of_busy (h : s.phase ≠ .idle) : releaseResult s = s := if_neg h

/-- Only the transport's own move changes its readiness (log entry 13). -/
theorem moveEffect_txReady {m : Move} (hm : ∀ ready, m ≠ .txReady ready) (h : moveEffect m s = .next t) :
    t.txReady = s.txReady := by
  rcases moveEffect_eq_next h with ⟨-, rfl⟩ | ⟨-, hblock⟩ | ⟨_, -, rfl⟩ | ⟨-, rfl⟩ | ⟨r, hr, -⟩ | ⟨_, _, -, rfl⟩
    | ⟨-, rfl⟩ | ⟨-, rfl⟩
  · rfl
  · rw [blockStep_frame hblock]
  · rfl
  · rw [rxTimeout_frame]
  · exact absurd hr (hm r)
  · rfl
  · exact releaseResult_txReady s
  · rfl

/-- Only a release and a reset change who holds the block (log entry 7). -/
theorem moveEffect_owner {m : Move} (hrelease : m ≠ .release) (hreset : m ≠ .reset) (h : moveEffect m s = .next t) :
    t.owner = s.owner := by
  rcases moveEffect_eq_next h with ⟨-, rfl⟩ | ⟨-, hblock⟩ | ⟨_, -, rfl⟩ | ⟨-, rfl⟩ | ⟨_, -, rfl⟩ | ⟨_, _, -, rfl⟩
    | ⟨hm, -⟩ | ⟨hm, -⟩
  · rfl
  · rw [blockStep_frame hblock]
  · rfl
  · rw [rxTimeout_frame]
  · rfl
  · rfl
  · exact absurd hm hrelease
  · exact absurd hm hreset

theorem moveEffect_cfg {m : Move} (h : moveEffect m s = .next t) : t.cfg = s.cfg := by
  rcases moveEffect_eq_next h with ⟨-, rfl⟩ | ⟨-, hblock⟩ | ⟨_, -, rfl⟩ | ⟨-, rfl⟩ | ⟨_, -, rfl⟩ | ⟨_, _, -, rfl⟩
    | ⟨-, rfl⟩ | ⟨-, rfl⟩
  · rfl
  · rw [blockStep_frame hblock]
  · rfl
  · rw [rxTimeout_frame]
  · rfl
  · rfl
  · exact releaseResult_cfg s
  · rfl

/-- A move keeps the canonical form of `BUF`'s storage: only a response byte is written there, and a reset empties
it. -/
theorem moveEffect_wf {m : Move} (h : moveEffect m s = .next t) (hwf : Memory.wf s.buf = true) :
    Memory.wf t.buf = true := by
  rcases moveEffect_eq_next h with ⟨-, rfl⟩ | ⟨-, hblock⟩ | ⟨_, -, rfl⟩ | ⟨-, rfl⟩ | ⟨_, -, rfl⟩ | ⟨_, _, -, rfl⟩
    | ⟨-, rfl⟩ | ⟨-, rfl⟩
  · exact hwf
  · cases blockStep_eq_next_iff.mp hblock with
    | waits | sends | sendsLast | takesAck | mismatch | acknowledgedEmpty | acknowledged => exact hwf
    | takesRsp | takesLast => exact memWrite_wf s.buf s.idx _ hwf
  · exact hwf
  · rw [rxTimeout_frame]
    exact hwf
  · exact hwf
  · exact hwf
  · rw [releaseResult_buf]
    exact hwf
  · rfl

/-- A move hands at most one byte to the transport, the block's in `SEND`, the byte of `BUF` at `IDX` (R51, R123). -/
theorem moveEffect_txlog {m : Move} (h : moveEffect m s = .next t) : t.txlog = s.txlog ∨
    (s.phase = .send ∧ s.txReady = true ∧ ∃ b, memLookup s.buf s.idx = some b ∧ t.txlog = s.txlog ++ [b]) := by
  rcases moveEffect_eq_next h with ⟨-, rfl⟩ | ⟨-, hblock⟩ | ⟨_, -, rfl⟩ | ⟨-, rfl⟩ | ⟨_, -, rfl⟩ | ⟨_, _, -, rfl⟩
    | ⟨-, rfl⟩ | ⟨-, rfl⟩
  · exact .inl rfl
  · cases blockStep_eq_next_iff.mp hblock with
    | sends hphase hready hbyte | sendsLast hphase hready hbyte =>
      exact .inr ⟨hphase, hready, _, (bufByte_eq_ok.mp hbyte).2, rfl⟩
    | waits | takesAck | mismatch | acknowledgedEmpty | acknowledged | takesRsp | takesLast => exact .inl rfl
  · exact .inl rfl
  · rw [rxTimeout_frame]
    exact .inl rfl
  · exact .inl rfl
  · exact .inl rfl
  · exact .inl (releaseResult_txlog s)
  · exact .inl rfl

/-- An instruction hands bytes to the transport only as the command frame that the block is sending. -/
theorem exec_txlog {i : Instr} (h : exec i s = .next t) : t.txlog = s.txlog ∨
    ∃ code params, i = .cmdFrame code params ∧ sendingFrame code params s = true ∧
      t.txlog = s.txlog ++ (encodeFrame code params).drop s.idx := by
  rcases exec_eq_next h with ⟨code, params, rfl, ⟨-, rfl⟩ | ⟨hsending, -⟩⟩ | ⟨_, -, rfl⟩ | ⟨_, -, rfl⟩
    | ⟨_, _, _, _, hrequest⟩ | ⟨-, rfl⟩
  · exact .inl rfl
  · obtain ⟨-, rfl⟩ := (exec_cmdFrame_sending hsending).mp h
    exact .inr ⟨code, params, rfl, hsending, rfl⟩
  · exact .inl rfl
  · exact .inl rfl
  · obtain ⟨-, ⟨-, rfl⟩ | ⟨-, -, -, rfl⟩⟩ := requestExchange_eq_next.mp hrequest
    · exact .inl rfl
    · exact .inl rfl
  · exact .inl rfl

/-- A block that is offering a byte which nothing takes keeps offering it (R33). -/
theorem moveEffect_offer {m : Move} (hphase : s.phase = .send) (hreset : m ≠ .reset)
    (hblock : m = .block → s.txReady = false) (h : moveEffect m s = .next t) :
    t.phase = .send ∧ t.idx = s.idx ∧ t.buf = s.buf ∧ t.txlog = s.txlog := by
  rcases moveEffect_eq_next h with ⟨-, rfl⟩ | ⟨hm, hstep⟩ | ⟨_, -, rfl⟩ | ⟨-, rfl⟩ | ⟨_, -, rfl⟩ | ⟨_, _, -, rfl⟩
    | ⟨-, rfl⟩ | ⟨hm, -⟩
  · exact ⟨hphase, rfl, rfl, rfl⟩
  · have hwait : blockReady s = false := by rw [blockReady, hphase]; exact hblock hm
    obtain rfl := Host.Outcome.next.inj ((blockStep_waits hwait).symm.trans hstep)
    exact ⟨hphase, rfl, rfl, rfl⟩
  · exact ⟨hphase, rfl, rfl, rfl⟩
  · rw [rxTimeout_of_not_enabled (.inr (.inr (.inr hphase)))]
    exact ⟨hphase, rfl, rfl, rfl⟩
  · exact ⟨hphase, rfl, rfl, rfl⟩
  · exact ⟨hphase, rfl, rfl, rfl⟩
  · rw [releaseResult_of_busy (by simp [hphase])]
    exact ⟨hphase, rfl, rfl, rfl⟩
  · exact absurd hm hreset

theorem exec_offer {i : Instr} (hphase : s.phase = .send) (hreset : i ≠ .reset)
    (hframe : ∀ code params, i ≠ .cmdFrame code params) (h : exec i s = .next t) :
    t.phase = .send ∧ t.idx = s.idx ∧ t.buf = s.buf ∧ t.txlog = s.txlog := by
  rcases exec_eq_next h with ⟨code, params, hi, -⟩ | ⟨_, -, rfl⟩ | ⟨_, -, rfl⟩ | ⟨_, _, _, _, hrequest⟩ | ⟨hi, -⟩
  · exact absurd hi (hframe code params)
  · exact ⟨hphase, rfl, rfl, rfl⟩
  · exact ⟨hphase, rfl, rfl, rfl⟩
  · obtain rfl := requestExchange_busy (by simp [hphase]) hrequest
    exact ⟨hphase, rfl, rfl, rfl⟩
  · exact absurd hi hreset

/-! ### The block's moves in a row -/

/-- A block that waits, waits through any number of its moves. -/
theorem runMoves_block_waits (h : blockReady s = false) (n : Nat) :
    runMoves (List.replicate n .block) s = .next s := by
  induction n with
  | zero => rfl
  | succ n ih =>
    rw [List.replicate_succ, runMoves_cons_of_next (show moveEffect .block s = .next s from blockStep_waits h), ih]

/-- As many moves of the block as bytes of a first part of what is left to send, send this part (R123). -/
theorem runMoves_block_send_part {n : Nat} {bs : List Byte} (hphase : s.phase = .send) (hready : s.txReady = true)
    (hn : s.idx + n < s.flen) (hcap : s.flen ≤ s.cfg.bufCap) (hread : memRead s.buf s.idx n = some bs) :
    runMoves (List.replicate n .block) s = .next { s with txlog := s.txlog ++ bs, idx := s.idx + n } := by
  induction n generalizing s bs with
  | zero =>
    obtain rfl : [] = bs := Option.some.inj hread
    rw [List.append_nil]
    rfl
  | succ n ih =>
    obtain ⟨b, cs, rfl, hb, hcs⟩ := exists_cons_of_memRead_succ hread
    have hmove := moveEffect_block_send hphase hready (bufByte_eq_ok.mpr ⟨by omega, hb⟩)
    rw [if_pos (by omega)] at hmove
    have hrest := ih (s := nextIdx (txByte b s)) hphase hready (show s.idx + 1 + n < s.flen by omega) hcap hcs
    have hidx : s.idx + 1 + n = s.idx + (n + 1) := by omega
    calc runMoves (List.replicate (n + 1) .block) s
        = runMoves (List.replicate n .block) (nextIdx (txByte b s)) := runMoves_cons_of_next hmove
      _ = .next { s with txlog := s.txlog ++ [b] ++ cs, idx := s.idx + 1 + n } := hrest
      _ = .next { s with txlog := s.txlog ++ b :: cs, idx := s.idx + (n + 1) } := by
        rw [← List.append_cons, hidx]

/-! ### Reads of `BUF` that do not see the whole of it -/

/-- A range of `BUF` is read the same where its bytes are the same. -/
theorem bufBytes_congr {a n : Nat} (hcfg : t.cfg = s.cfg)
    (h : ∀ c, a ≤ c → c < a + n → memLookup t.buf c = memLookup s.buf c) : bufBytes t a n = bufBytes s a n := by
  induction n generalizing a with
  | zero => rfl
  | succ n ih =>
    have hfirst : bufByte t a = bufByte s a := by
      simp only [bufByte, hcfg, h a (by omega) (by omega)]
    have hrest := ih (a := a + 1) fun c hlow hhigh => h c (by omega) (by omega)
    simp only [bufBytes, hfirst, hrest]

/-- `rsp_raw` depends on `RSP_LEN` and `BUF` below it alone (R32). -/
theorem rspRaw_congr (hcfg : t.cfg = s.cfg) (hlen : t.rspLen = s.rspLen)
    (h : ∀ a, a < s.rspLen → memLookup t.buf a = memLookup s.buf a) : rspRaw t = rspRaw s := by
  rw [rspRaw, hlen]
  exact bufBytes_congr hcfg fun c _ hc => h c (by omega)

/-- A read of the result port sees of `BUF` only what `rsp_raw` is (R32). -/
theorem readPort_with_buf {m : Memory} {p : PortSelect} (hraw : rspRaw { s with buf := m } = rspRaw s)
    (h : readPort p s = .next t) : readPort p { s with buf := m } = .next { t with buf := m } := by
  cases p with
  | busy | cmdReady | result | rspLen =>
    obtain rfl := Host.Outcome.next.inj h
    rfl
  | rspRaw =>
    simp only [readPort, hraw] at h ⊢
    cases hbs : rspRaw s with
    | error f => simp [hbs] at h
    | ok bs =>
      rw [hbs] at h
      obtain rfl := Host.Outcome.next.inj h
      rfl
  | rspPayload =>
    simp only [readPort, hraw] at h ⊢
    split
    · next hshort => simp [hshort] at h
    · next hlong =>
      rw [if_neg hlong] at h
      cases hbs : rspRaw s with
      | error f => simp [hbs] at h
      | ok bs =>
        simp only [hbs] at h ⊢
        cases hpayload : stripChecked bs with
        | error r => simp [hpayload] at h
        | ok payload =>
          rw [hpayload] at h
          obtain rfl := Host.Outcome.next.inj h
          rfl
  | ackRaw =>
    have hack : firstUnwrittenAck { s with buf := m } = firstUnwrittenAck s := rfl
    simp only [readPort, hack] at h ⊢
    cases hfirst : firstUnwrittenAck s with
    | some i => simp [hfirst] at h
    | none =>
      rw [hfirst] at h
      obtain rfl := Host.Outcome.next.inj h
      rfl
  | ackByte i =>
    have hack : ackByte { s with buf := m } i = ackByte s i := rfl
    simp only [readPort, hack] at h ⊢
    cases hbyte : ackByte s i with
    | none => simp [hbyte] at h
    | some b =>
      rw [hbyte] at h
      obtain rfl := Host.Outcome.next.inj h
      rfl

/-! ### A silent exchange -/

/-- With a transport that never times out, a block that waits for a byte is changed by no move of an exchange but a
push, save for the transport's readiness (R136). -/
theorem runMoves_silent {ms : List Move} (hnever : s.cfg.transportMayTimeOut = false)
    (hphase : s.phase = .waitAck ∨ s.phase = .readRsp) (hrxq : s.rxq = [])
    (hms : ∀ m ∈ ms, exchangeMove m = true) (hsilent : pushedBytes ms = []) :
    ∃ ready, runMoves ms s = .next { s with txReady := ready } := by
  induction ms generalizing s with
  | nil => exact ⟨s.txReady, rfl⟩
  | cons m ms ih =>
    obtain ⟨hm, hrest⟩ := List.forall_mem_cons.mp hms
    cases m with
    | block =>
      have hready : blockReady s = false := by
        rcases hphase with hp | hp <;> simp [blockReady, hp, hrxq]
      rw [runMoves_cons_of_next (show moveEffect .block s = .next s from blockStep_waits hready)]
      exact ih hnever hphase hrxq hrest hsilent
    | rxTimeout =>
      have hsame := rxTimeout_of_not_enabled (.inl hnever)
      rw [runMoves_cons_of_next (show moveEffect .rxTimeout s = .next s from congrArg _ hsame)]
      exact ih hnever hphase hrxq hrest hsilent
    | txReady ready =>
      rw [runMoves_cons_of_next (show moveEffect (.txReady ready) s = .next (setTxReady ready s) from rfl)]
      exact ih (s := setTxReady ready s) hnever hphase hrxq hrest hsilent
    | devPush b => simp [pushedBytes] at hsilent
    | host | read | release | reset => cases hm

theorem blockReady_of_waiting (h : Waiting s) : blockReady s = false := by
  rcases h with ⟨hphase, hready⟩ | ⟨hphase | hphase, hrxq⟩
  · simp [blockReady, hphase, hready]
  · simp [blockReady, hphase, hrxq]
  · simp [blockReady, hphase, hrxq]

/-- A state that steps to itself stays for ever. -/
theorem runSteps_of_fixed (h : step s = .next s) (n : Nat) : runSteps n s = .next s := by
  induction n with
  | zero => rfl
  | succ n ih => simp only [runSteps, h, ih]

end Sys2Proof.Machine

namespace Sys2Proof.Proofs

open Sys2Proof Sys2Proof.Machine

/-- Settles O25: acceptance latches the caller; a release by its two cases; a reset clears the holder; the rest by
what moves and instructions leave as it is. -/
theorem callerHoldsTheBlockUntilRelease : Obligations.CallerHoldsTheBlockUntilRelease := by
  refine ⟨fun s t i caller hrequest hidle h => ?accept, fun s hidle => congrArg _ (releaseResult_of_idle hidle),
    fun s hbusy => congrArg _ (releaseResult_of_busy hbusy), fun s t h => ?resetMove, fun s t h => ?resetInstr,
    fun s t m hrelease hreset => moveEffect_owner hrelease hreset, fun s t i hi hrequest => exec_owner hi hrequest⟩
  case accept =>
    obtain ⟨code, params, explen, hexec⟩ := exec_of_requester hrequest
    rw [hexec] at h
    obtain ⟨-, -, rfl⟩ := requestExchange_idle hidle h
    rfl
  case resetMove =>
    obtain rfl := Host.Outcome.next.inj h
    rfl
  case resetInstr =>
    obtain rfl := Host.Outcome.next.inj h
    rfl

/-- Settles O27: a block offers in `SEND`, and what is offered is `BUF` at `IDX`. -/
theorem offeredByteIsNotWithdrawn : Obligations.OfferedByteIsNotWithdrawn := by
  intro s t hoffer
  have hphase : s.phase = .send := of_decide_eq_true hoffer
  have offer_stands (h : t.phase = .send ∧ t.idx = s.idx ∧ t.buf = s.buf ∧ t.txlog = s.txlog) :
      txValid t = true ∧ txData t = txData s ∧ t.txlog = s.txlog := by
    obtain ⟨hsend, hidx, hbuf, htxlog⟩ := h
    exact ⟨decide_eq_true hsend, by rw [txData, txData, hidx, hbuf], htxlog⟩
  exact ⟨fun m hreset hblock h => offer_stands (moveEffect_offer hphase hreset hblock h),
    fun i hreset hframe h => offer_stands (exec_offer hphase hreset hframe h)⟩

/-- Settles O30: the response-byte step of the other byte is the same but for the byte it stores. -/
theorem responseBytesAreNotInspected : Obligations.ResponseBytesAreNotInspected := by
  intro s t b b' rest hphase h
  have hother (buf : Memory) (c : Byte) : ∀ a, a ≠ s.idx → memLookup (memWrite buf s.idx [c]) a = memLookup buf a :=
    fun a ha => memLookup_memInsert_ne buf c ha
  rcases blockStep_eq_next.mp h with ⟨hready, -⟩ | ⟨hsend, -⟩ | ⟨hwait, -⟩ | ⟨-, c, cs, hqueue, hstep⟩
  · simp [blockReady, hphase] at hready
  · simp [hphase] at hsend
  · simp [hphase] at hwait
  · obtain ⟨rfl, rfl⟩ : b = c ∧ rest = cs := by simpa using hqueue
    obtain ⟨hinside, rfl⟩ := rspByteStep_eq_next.mp hstep
    refine ⟨_, moveEffect_block_readRsp hphase hinside rfl, ?_, fun a ha => ?_⟩
    · split <;> rfl
    · split
      · exact (hother s.buf b' a ha).trans (hother s.buf b a ha).symm
      · exact (hother s.buf b' a ha).trans (hother s.buf b a ha).symm

/-- Settles O31: by the timeout's three cases. -/
theorem timeoutSteps : Obligations.TimeoutSteps :=
  ⟨fun _ hmay hrxq hphase => congrArg Host.Outcome.next (rxTimeout_of_waitAck hmay hrxq hphase),
    fun _ hmay hrxq hphase => congrArg Host.Outcome.next (rxTimeout_of_readRsp hmay hrxq hphase),
    fun _ hnot => congrArg Host.Outcome.next (rxTimeout_of_not_enabled hnot)⟩

/-- Settles O36: `k` moves send the first `k` bytes; the reset leaves the block in `IDLE`, where it has no event. -/
theorem resetCutsTheFrame : Obligations.ResetCutsTheFrame := by
  intro s frame k hphase hready hidx hk hcap hread
  have hpart := memRead_take hread hk.le
  rw [← hidx] at hpart
  have hsent := runMoves_block_send_part hphase hready (by omega) hcap hpart
  refine ⟨_, (runMoves_append hsent).trans (runMoves_cons_of_next rfl), rfl, rfl, rfl, rfl, rfl, fun n => ?_⟩
  exact runMoves_block_waits rfl n

/-- Settles O38: `rsp_raw` ends at `RSP_LEN`, and no port reads `BUF` otherwise. -/
theorem bufferAboveTheResponseIsHidden : Obligations.BufferAboveTheResponseIsHidden :=
  fun _ _ _ _ hsame h => readPort_with_buf (rspRaw_congr rfl rfl hsame) h

/-- Settles O42: moves and instructions each keep both. -/
theorem stepKeepsCanonicalBufferAndParameters : Obligations.StepKeepsCanonicalBufferAndParameters := by
  intro s t h
  rcases step_eq_next h with ⟨-, hmove⟩ | ⟨-, -, rfl⟩ | ⟨-, _, _, i, -, -, hexec⟩
  · exact ⟨fun hwf => moveEffect_wf hmove hwf, (moveEffect_cfg hmove).trans (dropMove_cfg s)⟩
  · exact ⟨id, rfl⟩
  · exact ⟨fun hwf => exec_wf hexec hwf, (exec_cfg hexec).trans (dropMove_cfg s)⟩

/-- Settles O43: a move appends the byte at `IDX`, a command frame what is left of it from `IDX` on, and nothing else
appends. -/
theorem transmitLogOnlyGrowsWhileSending : Obligations.TransmitLogOnlyGrowsWhileSending := by
  intro s t h
  have unchanged (hsame : t.txlog = s.txlog) : ∃ bs, t.txlog = s.txlog ++ bs ∧
      (bs ≠ [] → s.phase = .send ∧ s.txReady = true ∧ memRead s.buf s.idx bs.length = some bs) :=
    ⟨[], by rw [hsame, List.append_nil], fun hne => absurd rfl hne⟩
  rcases step_eq_next h with ⟨-, hmove⟩ | ⟨-, -, rfl⟩ | ⟨-, _, _, i, -, -, hexec⟩
  · rcases moveEffect_txlog hmove with hsame | ⟨hphase, hready, b, hb, happend⟩
    · exact unchanged hsame
    · exact ⟨[b], happend, fun _ => ⟨hphase, hready, memRead_cons hb rfl⟩⟩
  · exact unchanged rfl
  · rcases exec_txlog hexec with hsame | ⟨code, params, -, hsending, happend⟩
    · exact unchanged hsame
    · obtain ⟨hphase, hready, hidx, hframe⟩ := sendingFrame_iff.mp hsending
      refine ⟨_, happend, fun _ => ⟨hphase, hready, ?_⟩⟩
      have hrest := memRead_drop hframe hidx.le
      rw [Nat.zero_add, ← ((memRead_eq_some_iff _ _ _ _).mp hframe).1, ← List.length_drop] at hrest
      exact hrest

/-- Settles O47: a waiting block with nothing around it steps to itself; a silent exchange is unchanged but for the
transport's readiness. -/
theorem waitingLastsForEver : Obligations.WaitingLastsForEver := by
  constructor
  · intro s hwaiting hschedule hprogram
    exact runSteps_of_fixed (step_of_quiet hschedule (blockReady_of_waiting hwaiting) hprogram)
  · intro s ms hnever hphase hrxq hms hsilent
    obtain ⟨ready, hrun⟩ := runMoves_silent hnever hphase hrxq hms hsilent
    refine ⟨_, hrun, rfl, rfl, decide_eq_true ?_, rfl⟩
    rcases hphase with hp | hp <;> simp [hp]

/-- Settles O51: the readiness by what moves and instructions leave as it is; while it is not set, `SEND` has no
event. -/
theorem transportReadiness : Obligations.TransportReadiness :=
  ⟨fun _ _ => rfl, fun _ _ _ hm h => moveEffect_txReady hm h, fun _ _ _ h => exec_txReady h,
    fun _ hphase hready => blockStep_waits (blockReady_of_waiting (.inl ⟨hphase, hready⟩))⟩

end Sys2Proof.Proofs
end

section
/-! The invariant (R38): it holds at reset, every event, move and instruction keeps it, and from it no step faults;
the edges of the phase table (R135) and what a failure leaves (R151, R160) follow from the events. -/

namespace Sys2Proof.Machine

variable {s t : State}

/-! ### Buffers after a write -/

/-- Storing the byte behind a range makes the range one longer. -/
theorem memRead_memWrite_succ {m : Memory} {n : Nat} {bs : List Byte} (h : memRead m 0 n = some bs) (b : Byte) :
    memRead (memWrite m n [b]) 0 (n + 1) = some (bs ++ [b]) := by
  refine memRead_succ_right ?_ (by rw [Nat.zero_add]; exact memLookup_memInsert_self m n b)
  rw [← h]
  exact memRead_congr fun c _ hc => memLookup_memInsert_ne m b (by omega)

/-- A write inside the buffer leaves no byte outside it. -/
theorem memWrite_inBuffer {m : Memory} {n k : Nat} {bs : List Byte}
    (h : ∀ a b, memLookup m a = some b → a < n) (hk : k + bs.length ≤ n) (a : Nat) (b : Byte)
    (hb : memLookup (memWrite m k bs) a = some b) : a < n := by
  by_cases hout : a < k ∨ k + bs.length ≤ a
  · rw [memLookup_memWrite_outside bs m k a hout] at hb
    exact h a b hb
  · omega

/-- Writing the next byte of `ACKBUF` makes the written ones one more. -/
theorem ackWritten_set {written : Vector Bool 6} {n : Nat} (h : ∀ i : Fin 6, i.val < n → written[i] = true)
    (i : Fin 6) (hi : i.val < n + 1) : (written.setIfInBounds n true)[i] = true := by
  rcases Nat.lt_succ_iff_lt_or_eq.mp hi with hlt | heq
  · have hne : n ≠ i.val := by omega
    simpa [Vector.getElem_setIfInBounds, hne] using h i hlt
  · simp [heq]

/-! ### What the invariant says in each phase -/

theorem Inv.rspLen_of_send (h : Inv s) (hphase : s.phase = .send) : s.rspLen = 0 := (h.sending hphase).2.1

theorem Inv.rspLen_of_waitAck (h : Inv s) (hphase : s.phase = .waitAck) : s.rspLen = 0 := (h.waiting hphase).2.1

theorem Inv.written_of_waitAck (h : Inv s) (hphase : s.phase = .waitAck) (i : Fin 6) (hi : i.val < s.idx) :
    s.ackWritten[i] = true := (h.waiting hphase).2.2 i hi

theorem Inv.idx_lt_exp (h : Inv s) (hphase : s.phase = .readRsp) : s.idx < s.exp := (h.reading hphase).2.1

/-! ### What keeps the invariant -/

/-- The invariant says nothing of the streams, the environment and the host's side. -/
theorem Inv.outside (h : Inv s) {rxq txlog : List Byte} {txReady : Bool} {program : List Line} {schedule : List Move}
    {answer : Answer} :
    Inv { s with rxq, txlog, txReady, program, schedule, answer } :=
  { h with }

/-- A sent frame leaves the block waiting for the first acknowledgment byte. -/
theorem Inv.enterWaitAck (h : Inv s) (hphase : s.phase = .send) : Inv (enterPhase .waitAck s) :=
  { h with
    idle := nofun
    busyRegisters := fun _ => h.busyRegisters (by simp [hphase])
    sending := nofun
    waiting := fun _ => ⟨Nat.zero_lt_succ 5, h.rspLen_of_send hphase, nofun⟩
    reading := nofun
    ackKept := fun hkept => h.ackKept (hkept.elim nofun .inr) }

/-- An accepted request (R122). -/
theorem Inv.accept (h : Inv s) (caller : Caller) (code : Byte) {params : List Byte} {explen : Nat}
    (hfits : 9 + params.length ≤ s.cfg.bufCap) (hexp : explen ≤ s.cfg.bufCap) :
    Inv (accept caller code params explen s) :=
  have hlen := encodeFrame_length code params
  { h with
    canonical := memWrite_wf s.buf 0 (encodeFrame code params) h.canonical
    inBuffer := memWrite_inBuffer h.inBuffer (show 0 + (encodeFrame code params).length ≤ s.cfg.bufCap by omega)
    idle := nofun
    busyRegisters := fun _ => ⟨rfl, Nat.le.intro hlen.symm, hlen.trans_le hfits, hexp, rfl⟩
    sending := fun _ => ⟨show 0 < (encodeFrame code params).length by omega, rfl, code, params,
      memRead_memWrite s.buf 0 _⟩
    waiting := nofun
    reading := nofun
    lengths := ⟨Nat.zero_le _, hexp⟩
    doneOk := nofun
    doneMismatch := nofun
    doneAckTimeout := nofun
    doneRspTimeout := nofun
    responseKept := ⟨[], rfl⟩
    ackKept := by simp [Machine.accept] }

/-- RESET (R37, R175). -/
theorem Inv.resetBlock (h : Inv s) : Inv (resetBlock s) :=
  { h with
    canonical := rfl
    inBuffer := nofun
    idle := fun _ => rfl
    busyRegisters := fun hne => absurd rfl hne
    sending := nofun
    waiting := nofun
    reading := nofun
    lengths := ⟨le_rfl, Nat.zero_le _⟩
    doneOk := nofun
    doneMismatch := nofun
    doneAckTimeout := nofun
    doneRspTimeout := nofun
    responseKept := ⟨[], rfl⟩
    ackKept := by simp }

/-- The end of an exchange, with what its outcome promises of the record (R134, R151). -/
theorem Inv.complete (h : Inv s) {r : ExchangeResult}
    (hok : r = .ok → s.rspLen = s.exp ∧ s.ackBuf.toList = ackConst)
    (hmismatch : r = .ackMismatch → s.ackBuf.toList ≠ ackConst ∧ s.rspLen = 0)
    (hackTimeout : r = .ackTimeout → s.rspLen = 0)
    (hrspTimeout : r = .rspTimeout → s.rspLen < s.exp ∧ s.ackBuf.toList = ackConst)
    (hkept : r = .ok ∨ r = .ackMismatch ∨ r = .rspTimeout → ∀ i : Fin 6, s.ackWritten[i]) :
    Inv (complete r s) :=
  { h with
    idle := fun _ => rfl
    busyRegisters := fun hne => absurd rfl hne
    sending := nofun
    waiting := nofun
    reading := nofun
    doneOk := hok
    doneMismatch := hmismatch
    doneAckTimeout := hackTimeout
    doneRspTimeout := hrspTimeout
    ackKept := fun hk => hkept (hk.elim nofun id) }

/-- An acknowledgment byte stored at `IDX` (R125). -/
theorem Inv.storeAck (h : Inv s) (hphase : s.phase = .waitAck) (b : Byte) : Inv (storeAck s.idx b s) := by
  obtain ⟨hidx, hlen, hwritten⟩ := h.waiting hphase
  obtain ⟨hresult, -⟩ := h.busyRegisters (by simp [hphase])
  exact { h with
    waiting := fun _ => ⟨hidx, hlen, fun i hi => ackWritten_set hwritten i (Nat.lt_succ_of_lt hi)⟩
    reading := by simp [hphase]
    doneOk := by simp [hresult]
    doneMismatch := by simp [hresult]
    doneRspTimeout := by simp [hresult]
    ackKept := by simp [hphase, hresult] }

/-- With five acknowledgment bytes taken, the sixth makes all of them written. -/
theorem Inv.ackWritten_of_sixth (h : Inv s) (hphase : s.phase = .waitAck) (hsixth : s.idx = 5) (b : Byte)
    (i : Fin 6) : (Machine.storeAck s.idx b s).ackWritten[i] = true :=
  ackWritten_set (h.written_of_waitAck hphase) i (by omega)

/-- Every event of the block keeps the invariant. -/
theorem Inv.blockEvent (h : Inv s) (hevent : BlockEvent s t) : Inv t := by
  have hpop : Inv (rxPop s) := h.outside
  cases hevent with
  | waits => exact h
  | sends hphase hready hbyte hmore =>
    exact { h with
      idle := by simp [hphase]
      sending := fun _ => ⟨hmore, (h.sending hphase).2⟩
      waiting := by simp [hphase]
      reading := by simp [hphase] }
  | sendsLast hphase hready hbyte hlast => exact (h.enterWaitAck hphase).outside
  | @takesAck b rest hphase hqueue hmore =>
    have hstored := hpop.storeAck hphase b
    exact { hstored with
      idle := by simp [hphase]
      sending := by simp [hphase]
      waiting := fun _ => ⟨hmore, h.rspLen_of_waitAck hphase, ackWritten_set (h.written_of_waitAck hphase)⟩
      reading := by simp [hphase] }
  | @mismatch b rest hphase hqueue hsixth hack =>
    exact (hpop.storeAck hphase b).complete (r := .ackMismatch) nofun (fun _ => ⟨hack, h.rspLen_of_waitAck hphase⟩)
      nofun nofun fun _ => h.ackWritten_of_sixth hphase hsixth b
  | @acknowledgedEmpty b rest hphase hqueue hsixth hack hexp =>
    exact (hpop.storeAck hphase b).complete (r := .ok)
      (fun _ => ⟨(h.rspLen_of_waitAck hphase).trans hexp.symm, hack⟩) nofun nofun nofun
      fun _ => h.ackWritten_of_sixth hphase hsixth b
  | @acknowledged b rest hphase hqueue hsixth hack hexp =>
    have hstored := hpop.storeAck hphase b
    exact { hstored with
      idle := nofun
      busyRegisters := fun _ => h.busyRegisters (by simp [hphase])
      sending := nofun
      waiting := nofun
      reading := fun _ => ⟨hexp, hexp, h.rspLen_of_waitAck hphase, hack⟩
      ackKept := fun _ => h.ackWritten_of_sixth hphase hsixth b }
  | @takesRsp b rest hphase hqueue hinside hmore =>
    obtain ⟨-, -, hlen, hack⟩ := h.reading hphase
    obtain ⟨bs, hbs⟩ := h.responseKept
    obtain ⟨hresult, -⟩ := h.busyRegisters (by simp [hphase])
    exact { h with
      canonical := memWrite_wf s.buf s.idx [b] h.canonical
      inBuffer := memWrite_inBuffer h.inBuffer hinside
      idle := by simp [hphase]
      sending := by simp [hphase]
      waiting := by simp [hphase]
      reading := fun _ => ⟨Nat.lt_of_le_of_lt (Nat.zero_le _) hmore, hmore, rfl, hack⟩
      lengths := ⟨hmore.le, h.lengths.2⟩
      doneOk := by simp [hresult]
      doneMismatch := by simp [hresult]
      doneAckTimeout := by simp [hresult]
      doneRspTimeout := by simp [hresult]
      responseKept := ⟨bs ++ [b], memRead_memWrite_succ (hlen ▸ hbs) b⟩ }
  | @takesLast b rest hphase hqueue hinside hlast =>
    obtain ⟨-, hidx, hlen, hack⟩ := h.reading hphase
    obtain ⟨bs, hbs⟩ := h.responseKept
    have hcount : s.idx + 1 = s.exp := by omega
    exact { h with
      canonical := memWrite_wf s.buf s.idx [b] h.canonical
      inBuffer := memWrite_inBuffer h.inBuffer hinside
      idle := fun _ => rfl
      busyRegisters := fun hne => absurd rfl hne
      sending := nofun
      waiting := nofun
      reading := nofun
      lengths := ⟨hcount.le, h.lengths.2⟩
      doneOk := fun _ => ⟨hcount, hack⟩
      doneMismatch := nofun
      doneAckTimeout := nofun
      doneRspTimeout := nofun
      responseKept := ⟨bs ++ [b], memRead_memWrite_succ (hlen ▸ hbs) b⟩
      ackKept := fun _ => h.ackKept (.inl hphase) }

/-- A timeout keeps the invariant. -/
theorem Inv.rxTimeout (h : Inv s) : Inv (rxTimeout s) := by
  rcases rxTimeout_cases s with ⟨-, -, hphase, heq⟩ | ⟨-, -, hphase, heq⟩ | ⟨-, heq⟩
  · rw [heq]
    exact h.complete nofun nofun (fun _ => h.rspLen_of_waitAck hphase) nofun nofun
  · obtain ⟨-, hidx, hlen, hack⟩ := h.reading hphase
    rw [heq]
    exact h.complete nofun nofun nofun (fun _ => ⟨hlen.trans_lt hidx, hack⟩) fun _ => h.ackKept (.inl hphase)
  · rw [heq]
    exact h

/-- A release keeps the invariant: only a busy block needs its holder. -/
theorem Inv.releaseResult (h : Inv s) : Inv (releaseResult s) := by
  by_cases hidle : s.phase = .idle
  · rw [releaseResult_of_idle hidle]
    exact { h with busyRegisters := fun hne => absurd hidle hne }
  · rw [releaseResult_of_busy hidle]
    exact h

/-- Every move keeps the invariant. -/
theorem Inv.moveEffect (h : Inv s) {m : Move} (hmove : moveEffect m s = .next t) : Inv t := by
  rcases moveEffect_eq_next hmove with ⟨-, rfl⟩ | ⟨-, hblock⟩ | ⟨_, -, rfl⟩ | ⟨-, rfl⟩ | ⟨_, -, rfl⟩ | ⟨_, _, -, rfl⟩
    | ⟨-, rfl⟩ | ⟨-, rfl⟩
  · exact h
  · exact h.blockEvent (blockStep_eq_next_iff.mp hblock)
  · exact h.outside
  · exact h.rxTimeout
  · exact h.outside
  · exact h.outside
  · exact h.releaseResult
  · exact h.resetBlock

/-- Every instruction keeps the invariant. -/
theorem Inv.exec (h : Inv s) {i : Instr} (hexec : exec i s = .next t) : Inv t := by
  rcases exec_eq_next hexec with ⟨code, params, rfl, ⟨-, rfl⟩ | ⟨hsending, -⟩⟩ | ⟨_, -, rfl⟩ | ⟨_, -, rfl⟩
    | ⟨caller, code, params, explen, hrequest⟩ | ⟨-, rfl⟩
  · exact h
  · obtain ⟨hphase, -⟩ := sendingFrame_iff.mp hsending
    obtain ⟨-, rfl⟩ := (exec_cmdFrame_sending hsending).mp hexec
    exact (h.enterWaitAck hphase).outside
  · exact h.outside
  · exact h.outside
  · obtain ⟨-, ⟨-, rfl⟩ | ⟨-, hfits, hexp, rfl⟩⟩ := requestExchange_eq_next.mp hrequest
    · exact h
    · exact (h.accept caller code hfits hexp).outside
  · exact h.resetBlock.outside

/-! ### No faults -/

/-- In the invariant the byte at `IDX` of a frame being sent can be read. -/
theorem Inv.exists_bufByte (h : Inv s) (hphase : s.phase = .send) : ∃ b, bufByte s s.idx = .ok b := by
  obtain ⟨hidx, -, code, params, hframe⟩ := h.sending hphase
  obtain ⟨-, -, hcap, -⟩ := h.busyRegisters (by simp [hphase])
  obtain ⟨b, -, hb⟩ := memLookup_of_memRead hframe hidx
  exact ⟨b, bufByte_eq_ok.mpr ⟨hidx.trans_le hcap, hb⟩⟩

/-- In the invariant the block's move has a next state. -/
theorem Inv.exists_blockStep (h : Inv s) : ∃ t, blockStep s = .next t := by
  cases hready : blockReady s with
  | false => exact ⟨s, blockStep_waits hready⟩
  | true =>
    cases hphase : s.phase with
    | idle => simp [blockReady, hphase] at hready
    | send =>
      obtain ⟨b, hb⟩ := h.exists_bufByte hphase
      rw [blockReady, hphase] at hready
      exact ⟨_, moveEffect_block_send hphase hready hb⟩
    | waitAck =>
      obtain ⟨b, rest, hqueue⟩ : ∃ b rest, s.rxq = b :: rest :=
        List.exists_cons_of_ne_nil (by simpa [blockReady, hphase] using hready)
      exact ⟨_, moveEffect_block_waitAck hphase (h.waiting hphase).1 hqueue⟩
    | readRsp =>
      obtain ⟨b, rest, hqueue⟩ : ∃ b rest, s.rxq = b :: rest :=
        List.exists_cons_of_ne_nil (by simpa [blockReady, hphase] using hready)
      have hinside : s.idx < s.cfg.bufCap := (h.idx_lt_exp hphase).trans_le h.lengths.2
      exact ⟨_, moveEffect_block_readRsp hphase hinside hqueue⟩

/-- In the invariant no read of the result port faults. -/
theorem Inv.readPort_ne_fault (h : Inv s) (p : PortSelect) (f : Fault) : readPort p s ≠ .fault f := by
  obtain ⟨bs, hbs⟩ := h.responseKept
  have hraw := h.rspRaw_eq_ok hbs
  intro hfault
  cases p with
  | busy | cmdReady | result | rspLen => cases hfault
  | rspRaw => simp [readPort, hraw] at hfault
  | rspPayload =>
    simp only [readPort, hraw] at hfault
    split at hfault
    · cases hfault
    · cases hpayload : stripChecked bs <;> simp [hpayload] at hfault
  | ackRaw => cases hfirst : firstUnwrittenAck s <;> simp [readPort, hfirst] at hfault
  | ackByte i => cases hbyte : Machine.ackByte s i <;> simp [readPort, hbyte] at hfault

theorem Inv.moveEffect_ne_fault (h : Inv s) (m : Move) (f : Fault) : Machine.moveEffect m s ≠ .fault f := by
  cases m with
  | block =>
    obtain ⟨t, ht⟩ := h.exists_blockStep
    exact fun hfault => absurd (ht.symm.trans hfault) (by simp)
  | read p => exact h.readPort_ne_fault p f
  | host | devPush | rxTimeout | txReady | release | reset => exact nofun

/-- A request has no fault: it is refused, waits or is accepted. -/
theorem requestExchange_ne_fault {caller : Caller} {code : Byte} {params : List Byte} {explen : Nat} (f : Fault) :
    requestExchange caller code params explen s ≠ .fault f := by
  unfold requestExchange
  repeat' split
  all_goals exact nofun

theorem Inv.exec_ne_fault (h : Inv s) (i : Instr) (f : Fault) : Machine.exec i s ≠ .fault f := by
  cases i with
  | cmdFrame code params =>
    cases hsending : sendingFrame code params s with
    | false => rw [exec_cmdFrame_waits hsending]; exact nofun
    | true =>
      obtain ⟨hphase, -⟩ := sendingFrame_iff.mp hsending
      obtain ⟨-, -, hcap, -⟩ := h.busyRegisters (by simp [hphase])
      rw [(exec_cmdFrame_sending hsending).mpr ⟨hcap, rfl⟩]
      exact nofun
  | encode code params =>
    by_cases hfits : commandFits s.cfg params = true
    · rw [exec_encode_of_fits hfits]; exact nofun
    · rw [exec_encode_tooLong hfits]; exact nofun
  | strip bs =>
    by_cases hlen : 8 ≤ bs.length
    · rw [exec_strip_of_le hlen]; exact nofun
    · rw [exec_strip_tooShort (not_le.mp hlen)]; exact nofun
  | ackFrame | rspFrame | isAck | wellFormed | reset => exact nofun
  | execute | firmwareVersionQuery | securityModuleConfiguration | rfRetryConfiguration | passiveTargetListing
  | dataExchange => exact requestExchange_ne_fault f

/-- The host's line, run or rejected, has no fault that its instruction has not. -/
theorem Inv.hostStep_ne_fault (h : Inv s) (f : Fault) : hostStep s ≠ .fault f := by
  unfold hostStep
  split
  · exact nofun
  · exact nofun
  · exact h.exec_ne_fault _ f

/-! ### The phase table -/

/-- A move other than the block's and a timeout changes PHASE only as a reset; the block's events are the edges of
R135 that are its own (R135). -/
theorem Inv.phaseEdge (h : Inv s) {m : Move} (hmove : Machine.moveEffect m s = .next t) :
    t.phase = s.phase ∨ PhaseEdge m s t := by
  rcases moveEffect_eq_next hmove with ⟨-, rfl⟩ | ⟨rfl, hblock⟩ | ⟨_, -, rfl⟩ | ⟨rfl, rfl⟩ | ⟨_, -, rfl⟩
    | ⟨_, _, -, rfl⟩ | ⟨-, rfl⟩ | ⟨rfl, rfl⟩
  · exact .inl rfl
  · cases blockStep_eq_next_iff.mp hblock with
    | waits | sends | takesAck | takesRsp => exact .inl rfl
    | sendsLast hphase hready hbyte hlast =>
      have hidx := (h.sending hphase).1
      exact .inr (.inl ⟨rfl, hphase, by omega, rfl⟩)
    | mismatch hphase hqueue hsixth hack =>
      exact .inr (.inr (.inl ⟨rfl, hphase, congrArg (· + 1) hsixth, decide_eq_false hack, rfl, rfl⟩))
    | acknowledgedEmpty hphase hqueue hsixth hack hexp =>
      exact .inr (.inr (.inr (.inl
        ⟨rfl, hphase, congrArg (· + 1) hsixth, decide_eq_true hack, hexp, rfl, rfl⟩)))
    | acknowledged hphase hqueue hsixth hack hexp =>
      exact .inr (.inr (.inr (.inr (.inl
        ⟨rfl, hphase, congrArg (· + 1) hsixth, decide_eq_true hack, hexp, rfl⟩))))
    | takesLast hphase hqueue hinside hlast =>
      have hidx := h.idx_lt_exp hphase
      exact .inr (.inr (.inr (.inr (.inr (.inr (.inl ⟨rfl, hphase, by omega, rfl, rfl⟩))))))
  · exact .inl rfl
  · rcases rxTimeout_cases s with ⟨-, hrxq, hphase, heq⟩ | ⟨-, hrxq, hphase, heq⟩ | ⟨-, heq⟩
    · rw [heq]
      exact .inr (.inr (.inr (.inr (.inr (.inl ⟨rfl, hphase, hrxq, rfl, rfl⟩)))))
    · rw [heq]
      exact .inr (.inr (.inr (.inr (.inr (.inr (.inr (.inl ⟨rfl, hphase, hrxq, rfl, rfl⟩)))))))
    · rw [heq]
      exact .inl rfl
  · exact .inl rfl
  · exact .inl rfl
  · exact .inl (releaseResult_phase s)
  · exact .inr (.inr (.inr (.inr (.inr (.inr (.inr (.inr ⟨rfl, rfl, rfl⟩)))))))

end Sys2Proof.Machine

namespace Sys2Proof.Proofs

open Sys2Proof Sys2Proof.Machine

/-- Settles O39: the block is idle with no outcome, `RSP_LEN` is 0 and `BUF` lists nothing. -/
theorem resetMeetsTheInvariant : Obligations.ResetMeetsTheInvariant where
  legal := by decide
  canonical := rfl
  inBuffer := nofun
  idle := fun _ => rfl
  busyRegisters := fun hne => absurd rfl hne
  sending := nofun
  waiting := nofun
  reading := nofun
  lengths := ⟨le_rfl, Nat.zero_le _⟩
  doneOk := nofun
  doneMismatch := nofun
  doneAckTimeout := nofun
  doneRspTimeout := nofun
  responseKept := ⟨[], rfl⟩
  ackKept := by simp [State.reset]

/-- Settles O40: moves and instructions each keep the invariant, which says nothing of the schedule. -/
theorem stepKeepsTheInvariant : Obligations.StepKeepsTheInvariant := by
  intro s t hinv h
  have hdrop : Inv (dropMove s) := hinv.outside
  rcases step_eq_next h with ⟨-, hmove⟩ | ⟨-, -, rfl⟩ | ⟨-, _, _, i, -, -, hexec⟩
  · exact hdrop.moveEffect hmove
  · exact hdrop
  · exact hdrop.exec hexec

/-- Settles O41: in the invariant neither a move nor the host's line faults. -/
theorem noStepFaults : Obligations.NoStepFaults := by
  intro s f hinv
  have hdrop : Inv (dropMove s) := hinv.outside
  by_cases hhost : nextMove s = .host
  · rw [step_of_host hhost]
    exact hdrop.hostStep_ne_fault f
  · rw [step_of_ne_host hhost]
    exact hdrop.moveEffect_ne_fault _ f

/-- Settles O33: the moves by the invariant and the events; an instruction changes PHASE as a frame that is sent whole,
an accepted request, or RESET. -/
theorem phaseChangesOnlyAlongTheTable : Obligations.PhaseChangesOnlyAlongTheTable := by
  refine ⟨fun m s t hinv h => hinv.phaseEdge h, fun i s t h => ?instr⟩
  case instr =>
    rcases exec_eq_next h with ⟨code, params, rfl, ⟨-, rfl⟩ | ⟨hsending, -⟩⟩ | ⟨_, -, rfl⟩ | ⟨_, -, rfl⟩
      | ⟨caller, code, params, explen, hrequest⟩ | ⟨hreset, rfl⟩
    · exact .inl rfl
    · obtain ⟨hphase, -⟩ := sendingFrame_iff.mp hsending
      obtain ⟨-, rfl⟩ := (exec_cmdFrame_sending hsending).mp h
      exact .inr (.inr (.inr ⟨code, params, rfl, hphase, rfl⟩))
    · exact .inl rfl
    · exact .inl rfl
    · by_cases hidle : s.phase = .idle
      · obtain ⟨-, -, rfl⟩ := requestExchange_idle hidle hrequest
        exact .inr (.inl ⟨hidle, rfl, caller, code, params, explen, hrequest⟩)
      · obtain rfl := requestExchange_busy hidle hrequest
        exact .inl rfl
    · exact .inr (.inr (.inl ⟨hreset, rfl, rfl⟩))

/-- Settles O34: the only moves that end an exchange in a failure are the sixth acknowledgment byte that does not match
and the two timeouts. -/
theorem failureLeavesTheRecord : Obligations.FailureLeavesTheRecord := by
  intro m s t hinv hbusy hmove hidle hfail
  have not_ended (hsame : t.phase = s.phase) : False := hbusy (hsame.symm.trans hidle)
  rcases moveEffect_eq_next hmove with ⟨-, rfl⟩ | ⟨-, hblock⟩ | ⟨_, -, rfl⟩ | ⟨-, rfl⟩ | ⟨_, -, rfl⟩ | ⟨_, _, -, rfl⟩
    | ⟨-, rfl⟩ | ⟨-, rfl⟩
  · exact (not_ended rfl).elim
  · cases blockStep_eq_next_iff.mp hblock with
    | waits | sends | takesAck | takesRsp => exact (not_ended rfl).elim
    | sendsLast | acknowledged => cases hidle
    | acknowledgedEmpty | takesLast => cases hfail
    | @mismatch b rest hphase hqueue hsixth hack =>
      exact ⟨rfl, rfl, rfl, rfl, rfl, rfl, nofun,
        fun _ => ⟨hinv.rspLen_of_waitAck hphase, rfl, decide_eq_false hack, hinv.ackWritten_of_sixth hphase hsixth b⟩,
        nofun⟩
  · exact (not_ended rfl).elim
  · rcases rxTimeout_cases s with ⟨-, hrxq, hphase, heq⟩ | ⟨-, hrxq, hphase, heq⟩ | ⟨-, heq⟩
    · obtain ⟨hidx, hlen, -⟩ := hinv.waiting hphase
      rw [heq]
      exact ⟨rfl, rfl, rfl, rfl, rfl, rfl, fun _ => ⟨hlen, hrxq, rfl, rfl, hidx⟩, nofun, nofun⟩
    · obtain ⟨-, hidx, hlen, hack⟩ := hinv.reading hphase
      rw [heq]
      exact ⟨rfl, rfl, rfl, rfl, rfl, rfl, nofun, nofun, fun _ => ⟨hlen.trans_lt hidx, hrxq, hack⟩⟩
    · exact (not_ended (congrArg State.phase heq)).elim
  · exact (not_ended rfl).elim
  · exact (not_ended rfl).elim
  · exact (not_ended (releaseResult_phase s)).elim
  · cases hfail

end Sys2Proof.Proofs
end

section
/-! Whole exchanges (R138, R139): how far an accepted exchange has come is read off the bytes that the device has
pushed since its acceptance. Every move of an exchange keeps this reading, in every order; what an ended exchange
leaves, and what a run without a timeout ends in, follow from it. -/

namespace Sys2Proof.Machine

variable {s t : State} {origin frame d : List Byte} {explen : Nat}

/-! ### Byte strings taken from the front -/

theorem getElem?_of_drop_eq_cons {k : Nat} {b : Byte} {rest : List Byte} (h : d.drop k = b :: rest) :
    d[k]? = some b := by
  rw [← Nat.add_zero k, ← List.getElem?_drop, h, List.getElem?_cons_zero]

theorem lt_length_of_drop_eq_cons {k : Nat} {b : Byte} {rest : List Byte} (h : d.drop k = b :: rest) :
    k < d.length :=
  (List.getElem?_eq_some_iff.mp (getElem?_of_drop_eq_cons h)).1

theorem take_succ_of_getElem? {k : Nat} {b : Byte} (h : d[k]? = some b) : d.take (k + 1) = d.take k ++ [b] := by
  rw [List.take_add_one, h, Option.toList_some]

theorem slice_eq_drop_take (a k : Nat) : slice d a k = (d.take k).drop a := by rw [slice, List.drop_take]

/-- A slice one byte longer. -/
theorem slice_succ {a k : Nat} {b : Byte} (ha : a ≤ k) (h : d[k]? = some b) :
    slice d a (k + 1) = slice d a k ++ [b] := by
  have hk : k < d.length := (List.getElem?_eq_some_iff.mp h).1
  have hlen : a ≤ (d.take k).length := by rw [List.length_take]; omega
  rw [slice_eq_drop_take, slice_eq_drop_take, take_succ_of_getElem? h, List.drop_append_of_le_length hlen]

/-- More bytes behind a slice do not change it. -/
theorem slice_append_of_le {k : Nat} (a : Nat) (more : List Byte) (h : k ≤ d.length) :
    slice (d ++ more) a k = slice d a k := by
  rw [slice_eq_drop_take, slice_eq_drop_take, List.take_append_of_le_length h]

/-- Storing the next byte of a string extends what the store and the string have in common. -/
theorem take_set_succ {xs : List Byte} {k : Nat} {b : Byte} (hk : k < xs.length) (hsame : xs.take k = d.take k)
    (hb : d[k]? = some b) : (xs.set k b).take (k + 1) = d.take (k + 1) := by
  rw [take_succ_of_getElem? (List.getElem?_set_self hk), List.take_set_of_le le_rfl, hsame, take_succ_of_getElem? hb]

/-! ### How far an exchange has come

`origin` is `TXLOG` at acceptance, `frame` the command's frame, `explen` the declared length, and `d` the bytes that
the device has pushed since. -/

/-- In `SEND`: the first `IDX` bytes of the frame have been sent, and everything pushed waits in the queue. -/
structure SendingFrame (origin frame : List Byte) (explen : Nat) (d : List Byte) (s : State) : Prop where
  phase : s.phase = .send
  exp : s.exp = explen
  rspFits : explen ≤ s.cfg.bufCap
  frameFits : s.flen ≤ s.cfg.bufCap
  flen : s.flen = frame.length
  idx : s.idx < s.flen
  stored : memRead s.buf 0 s.flen = some frame
  sent : s.txlog = origin ++ frame.take s.idx
  queue : s.rxq = d
  rspLen : s.rspLen = 0

/-- In `WAIT_ACK`: the frame has been sent, and the first `IDX` bytes pushed stand in `ACKBUF`. -/
structure AwaitingAck (origin frame : List Byte) (explen : Nat) (d : List Byte) (s : State) : Prop where
  phase : s.phase = .waitAck
  exp : s.exp = explen
  rspFits : explen ≤ s.cfg.bufCap
  sent : s.txlog = origin ++ frame
  idx : s.idx < 6
  taken : s.idx ≤ d.length
  queue : s.rxq = d.drop s.idx
  stored : s.ackBuf.toList.take s.idx = d.take s.idx
  rspLen : s.rspLen = 0

/-- In `READ_RSP`: the first six bytes pushed were the acknowledgment, and the next `IDX` stand in `BUF`. -/
structure ReadingResponse (origin frame : List Byte) (explen : Nat) (d : List Byte) (s : State) : Prop where
  phase : s.phase = .readRsp
  exp : s.exp = explen
  rspFits : explen ≤ s.cfg.bufCap
  sent : s.txlog = origin ++ frame
  idx : s.idx < explen
  taken : 6 + s.idx ≤ d.length
  queue : s.rxq = d.drop (6 + s.idx)
  ack : d.take 6 = ackConst
  stored : memRead s.buf 0 s.idx = some (slice d 6 (6 + s.idx))
  rspLen : s.rspLen = s.idx

/-- What each outcome says of the `k` bytes that the ended exchange has taken (R138). -/
inductive EndsWith (explen : Nat) (d : List Byte) (k : Nat) (s : State) : Prop where
  | ackTimeout (hresult : s.result = .ackTimeout) (hk : k < 6) (hrsp : rspRaw s = .ok [])
  | ackMismatch (hresult : s.result = .ackMismatch) (hk : k = 6) (hack : d.take 6 ≠ ackConst)
      (hrsp : rspRaw s = .ok [])
  | rspTimeout (hresult : s.result = .rspTimeout) (hmin : 6 ≤ k) (hmax : k < 6 + explen)
      (hack : d.take 6 = ackConst) (hrsp : rspRaw s = .ok (slice d 6 k))
  | ok (hresult : s.result = .ok) (hk : k = 6 + explen) (hack : d.take 6 = ackConst)
      (hrsp : rspRaw s = .ok (slice d 6 k))

/-- In `IDLE` again: the frame has been sent, `k` bytes have been taken, and the rest waits in the queue. -/
structure Ended (origin frame : List Byte) (explen : Nat) (d : List Byte) (k : Nat) (s : State) : Prop where
  phase : s.phase = .idle
  sent : s.txlog = origin ++ frame
  taken : k ≤ d.length
  queue : s.rxq = d.drop k
  outcome : EndsWith explen d k s

/-- How far the exchange has come, by PHASE. -/
inductive Progress (origin frame : List Byte) (explen : Nat) (d : List Byte) (s : State) : Prop where
  | sending (h : SendingFrame origin frame explen d s)
  | awaiting (h : AwaitingAck origin frame explen d s)
  | reading (h : ReadingResponse origin frame explen d s)
  | ended (k : Nat) (h : Ended origin frame explen d k s)

theorem Progress.of_send (h : Progress origin frame explen d s) (hphase : s.phase = .send) :
    SendingFrame origin frame explen d s := by
  cases h with
  | sending h => exact h
  | awaiting h | reading h | ended k h => cases h.phase.symm.trans hphase

theorem Progress.of_waitAck (h : Progress origin frame explen d s) (hphase : s.phase = .waitAck) :
    AwaitingAck origin frame explen d s := by
  cases h with
  | awaiting h => exact h
  | sending h | reading h | ended k h => cases h.phase.symm.trans hphase

theorem Progress.of_readRsp (h : Progress origin frame explen d s) (hphase : s.phase = .readRsp) :
    ReadingResponse origin frame explen d s := by
  cases h with
  | reading h => exact h
  | sending h | awaiting h | ended k h => cases h.phase.symm.trans hphase

theorem Progress.of_idle (h : Progress origin frame explen d s) (hphase : s.phase = .idle) :
    ∃ k, Ended origin frame explen d k s := by
  cases h with
  | ended k h => exact ⟨k, h⟩
  | sending h | awaiting h | reading h => cases h.phase.symm.trans hphase

/-- An accepted request is at the start of `SEND`, with an empty queue (R122). -/
theorem Accepted.progress {caller : Caller} {code : Byte} {params : List Byte}
    (h : Accepted s caller code params explen t) (hfits : 9 + params.length ≤ s.cfg.bufCap)
    (hexp : explen ≤ s.cfg.bufCap) : Progress s.txlog (encodeFrame code params) explen [] t :=
  .sending {
    phase := h.phase
    exp := h.exp
    rspFits := by rw [h.cfg]; exact hexp
    frameFits := by rw [h.cfg, h.flen]; exact hfits
    flen := by rw [h.flen, encodeFrame_length]
    idx := by rw [h.idx, h.flen]; omega
    stored := by rw [h.flen]; exact h.frame
    sent := by rw [h.idx, List.take_zero, List.append_nil]; exact h.txlog
    queue := h.rxq
    rspLen := h.rspLen }

/-! ### Every move of an exchange keeps the reading -/

theorem rspRaw_of_rspLen_zero (h : s.rspLen = 0) : rspRaw s = .ok [] := by rw [rspRaw, h, bufBytes]

theorem rspRaw_eq_ok_of_memRead {bs : List Byte} (hcap : s.rspLen ≤ s.cfg.bufCap)
    (h : memRead s.buf 0 s.rspLen = some bs) : rspRaw s = .ok bs :=
  bufBytes_eq_ok.mpr ⟨.inr (by rw [Nat.zero_add]; exact hcap), h⟩

/-- A byte sent is the next byte of the frame. -/
theorem SendingFrame.take_succ (h : SendingFrame origin frame explen d s) {b : Byte} (hb : bufByte s s.idx = .ok b) :
    frame.take (s.idx + 1) = frame.take s.idx ++ [b] := by
  obtain ⟨c, hframe, hlookup⟩ := memLookup_of_memRead h.stored h.idx
  obtain rfl : c = b := Option.some.inj (hlookup.symm.trans (bufByte_eq_ok.mp hb).2)
  exact take_succ_of_getElem? hframe

/-- The sixth acknowledgment byte makes `ACKBUF` the first six bytes pushed. -/
theorem AwaitingAck.ackBuf_of_sixth (h : AwaitingAck origin frame explen d s) (hsixth : s.idx = 5) {b : Byte}
    {rest : List Byte} (hqueue : s.rxq = b :: rest) : (s.ackBuf.setIfInBounds s.idx b).toList = d.take 6 := by
  have hb := getElem?_of_drop_eq_cons (h.queue.symm.trans hqueue)
  have hsix := take_set_succ (by rw [Vector.length_toList]; exact h.idx) h.stored hb
  rw [hsixth, List.take_of_length_le (by simp)] at hsix
  rw [hsixth, Vector.toList_setIfInBounds, hsix]

theorem AwaitingAck.six_le_of_sixth (h : AwaitingAck origin frame explen d s) (hsixth : s.idx = 5) {b : Byte}
    {rest : List Byte} (hqueue : s.rxq = b :: rest) : 6 ≤ d.length := by
  have hlt := lt_length_of_drop_eq_cons (h.queue.symm.trans hqueue)
  omega

theorem AwaitingAck.tail_of_sixth (h : AwaitingAck origin frame explen d s) (hsixth : s.idx = 5) :
    s.rxq.tail = d.drop 6 := by
  rw [h.queue, List.tail_drop, hsixth]

/-- An outcome is read off RESULT and `rsp_raw`. -/
theorem EndsWith.congr {k : Nat} (h : EndsWith explen d k s) (hresult : t.result = s.result)
    (hcfg : t.cfg = s.cfg) (hbuf : t.buf = s.buf) (hlen : t.rspLen = s.rspLen) : EndsWith explen d k t := by
  have hraw : rspRaw t = rspRaw s := rspRaw_congr hcfg hlen fun a _ => by rw [hbuf]
  cases h with
  | ackTimeout hr hk hrsp => exact .ackTimeout (hresult.trans hr) hk (hraw.trans hrsp)
  | ackMismatch hr hk hack hrsp => exact .ackMismatch (hresult.trans hr) hk hack (hraw.trans hrsp)
  | rspTimeout hr hmin hmax hack hrsp => exact .rspTimeout (hresult.trans hr) hmin hmax hack (hraw.trans hrsp)
  | ok hr hk hack hrsp => exact .ok (hresult.trans hr) hk hack (hraw.trans hrsp)

/-- More bytes behind the ones taken do not change an outcome. -/
theorem EndsWith.push {k : Nat} (h : EndsWith explen d k s) (hk : k ≤ d.length) (more : List Byte) :
    EndsWith explen (d ++ more) k s := by
  have hslice := slice_append_of_le 6 more hk
  have hsix (h6 : 6 ≤ k) : (d ++ more).take 6 = d.take 6 := List.take_append_of_le_length (h6.trans hk)
  cases h with
  | ackTimeout hr hlt hrsp => exact .ackTimeout hr hlt hrsp
  | ackMismatch hr heq hack hrsp => exact .ackMismatch hr heq (by rw [hsix heq.ge]; exact hack) hrsp
  | rspTimeout hr hmin hmax hack hrsp =>
    exact .rspTimeout hr hmin hmax ((hsix hmin).trans hack) (by rw [hslice]; exact hrsp)
  | ok hr heq hack hrsp => exact .ok hr heq ((hsix (by omega)).trans hack) (by rw [hslice]; exact hrsp)

/-- The block's event keeps the reading. -/
theorem Progress.blockEvent (h : Progress origin frame explen d s) (hevent : BlockEvent s t) :
    Progress origin frame explen d t := by
  cases hevent with
  | waits => exact h
  | @sends b hphase hready hbyte hmore =>
    have h := h.of_send hphase
    refine .sending { h with idx := hmore, sent := ?_ }
    calc s.txlog ++ [b] = origin ++ (frame.take s.idx ++ [b]) := by rw [h.sent, List.append_assoc]
      _ = origin ++ frame.take (s.idx + 1) := by rw [h.take_succ hbyte]
  | @sendsLast b hphase hready hbyte hlast =>
    have h := h.of_send hphase
    have hwhole : frame.take s.idx ++ [b] = frame := by
      rw [← h.take_succ hbyte, List.take_of_length_le (h.flen ▸ hlast)]
    refine .awaiting { h with
      phase := rfl, idx := Nat.zero_lt_succ 5, taken := Nat.zero_le _, stored := rfl, sent := ?_ }
    calc s.txlog ++ [b] = origin ++ (frame.take s.idx ++ [b]) := by rw [h.sent, List.append_assoc]
      _ = origin ++ frame := by rw [hwhole]
  | @takesAck b rest hphase hqueue hmore =>
    have h := h.of_waitAck hphase
    have hdrop := h.queue.symm.trans hqueue
    refine .awaiting { h with
      idx := hmore
      taken := lt_length_of_drop_eq_cons hdrop
      queue := ?queue
      stored := ?stored }
    case queue => exact (congrArg List.tail h.queue).trans List.tail_drop
    case stored =>
      change ((s.ackBuf.setIfInBounds s.idx b).toList).take (s.idx + 1) = d.take (s.idx + 1)
      rw [Vector.toList_setIfInBounds]
      exact take_set_succ (by rw [Vector.length_toList]; exact h.idx) h.stored (getElem?_of_drop_eq_cons hdrop)
  | @mismatch b rest hphase hqueue hsixth hack =>
    have h := h.of_waitAck hphase
    have hsix := h.ackBuf_of_sixth hsixth hqueue
    exact .ended 6 {
      phase := rfl
      sent := h.sent
      taken := h.six_le_of_sixth hsixth hqueue
      queue := h.tail_of_sixth hsixth
      outcome := .ackMismatch rfl rfl (hsix ▸ hack) (rspRaw_of_rspLen_zero h.rspLen) }
  | @acknowledgedEmpty b rest hphase hqueue hsixth hack hexp =>
    have h := h.of_waitAck hphase
    have hsix := h.ackBuf_of_sixth hsixth hqueue
    have hzero : explen = 0 := h.exp.symm.trans hexp
    have hnone : slice d 6 6 = [] := slice_eq_nil d le_rfl
    exact .ended 6 {
      phase := rfl
      sent := h.sent
      taken := h.six_le_of_sixth hsixth hqueue
      queue := h.tail_of_sixth hsixth
      outcome := .ok rfl (by rw [hzero]) (hsix ▸ hack) (by rw [hnone]; exact rspRaw_of_rspLen_zero h.rspLen) }
  | @acknowledged b rest hphase hqueue hsixth hack hexp =>
    have h := h.of_waitAck hphase
    have hsix := h.ackBuf_of_sixth hsixth hqueue
    have hnone : slice d 6 6 = [] := slice_eq_nil d le_rfl
    exact .reading { h with
      phase := rfl
      idx := h.exp ▸ hexp
      taken := h.six_le_of_sixth hsixth hqueue
      queue := h.tail_of_sixth hsixth
      ack := hsix ▸ hack
      stored := congrArg some hnone.symm }
  | @takesRsp b rest hphase hqueue hinside hmore =>
    have h := h.of_readRsp hphase
    have hdrop := h.queue.symm.trans hqueue
    have hslice := slice_succ (Nat.le_add_right 6 s.idx) (getElem?_of_drop_eq_cons hdrop)
    exact .reading { h with
      idx := h.exp ▸ hmore
      taken := lt_length_of_drop_eq_cons hdrop
      queue := (congrArg List.tail h.queue).trans List.tail_drop
      stored := (memRead_memWrite_succ h.stored b).trans (congrArg some hslice.symm)
      rspLen := rfl }
  | @takesLast b rest hphase hqueue hinside hlast =>
    have h := h.of_readRsp hphase
    have hdrop := h.queue.symm.trans hqueue
    have hslice := slice_succ (Nat.le_add_right 6 s.idx) (getElem?_of_drop_eq_cons hdrop)
    have hcount : s.idx + 1 = explen := le_antisymm h.idx (h.exp ▸ hlast)
    have hstored := (memRead_memWrite_succ h.stored b).trans (congrArg some hslice.symm)
    exact .ended (6 + s.idx + 1) {
      phase := rfl
      sent := h.sent
      taken := lt_length_of_drop_eq_cons hdrop
      queue := (congrArg List.tail h.queue).trans List.tail_drop
      outcome := .ok rfl (by omega) h.ack (rspRaw_eq_ok_of_memRead hinside hstored) }

/-- A pushed byte waits behind the others, whatever the phase (R55). -/
theorem Progress.push (h : Progress origin frame explen d s) (b : Byte) :
    Progress origin frame explen (d ++ [b]) (rxPush [b] s) := by
  have hlen : (d ++ [b]).length = d.length + 1 := by simp
  cases h with
  | sending h => exact .sending { h with queue := congrArg (· ++ [b]) h.queue }
  | awaiting h =>
    exact .awaiting { h with
      taken := by rw [hlen]; exact Nat.le_succ_of_le h.taken
      queue := (congrArg (· ++ [b]) h.queue).trans (List.drop_append_of_le_length h.taken).symm
      stored := h.stored.trans (List.take_append_of_le_length h.taken).symm }
  | reading h =>
    exact .reading { h with
      taken := by rw [hlen]; exact Nat.le_succ_of_le h.taken
      queue := (congrArg (· ++ [b]) h.queue).trans (List.drop_append_of_le_length h.taken).symm
      ack := by rw [List.take_append_of_le_length (Nat.le_of_add_right_le h.taken)]; exact h.ack
      stored := h.stored.trans (congrArg some (slice_append_of_le 6 [b] h.taken).symm) }
  | ended k h =>
    exact .ended k { h with
      taken := by rw [hlen]; exact Nat.le_succ_of_le h.taken
      queue := (congrArg (· ++ [b]) h.queue).trans (List.drop_append_of_le_length h.taken).symm
      outcome := (h.outcome.push h.taken [b]).congr rfl rfl rfl rfl }

/-- A timeout in `WAIT_ACK` (R127). -/
theorem AwaitingAck.timeout (h : AwaitingAck origin frame explen d s) :
    Ended origin frame explen d s.idx (complete .ackTimeout s) :=
  { h with
    phase := rfl
    outcome := .ackTimeout rfl h.idx (rspRaw_of_rspLen_zero h.rspLen) }

/-- A timeout in `READ_RSP` (R130). -/
theorem ReadingResponse.timeout (h : ReadingResponse origin frame explen d s) :
    Ended origin frame explen d (6 + s.idx) (complete .rspTimeout s) :=
  have hcap : s.rspLen ≤ s.cfg.bufCap := (h.rspLen.trans_lt h.idx).le.trans h.rspFits
  have hstored : memRead s.buf 0 s.rspLen = some (slice d 6 (6 + s.idx)) := by rw [h.rspLen]; exact h.stored
  { h with
    phase := rfl
    outcome := .rspTimeout rfl (Nat.le_add_right 6 s.idx) (Nat.add_lt_add_left h.idx 6) h.ack
      (rspRaw_eq_ok_of_memRead (s := complete .rspTimeout s) hcap hstored) }

/-- A timeout ends the exchange, or does nothing. -/
theorem Progress.rxTimeout (h : Progress origin frame explen d s) : Progress origin frame explen d (rxTimeout s) := by
  rcases rxTimeout_cases s with ⟨-, -, hphase, heq⟩ | ⟨-, -, hphase, heq⟩ | ⟨-, heq⟩
  · rw [heq]
    exact .ended _ (h.of_waitAck hphase).timeout
  · rw [heq]
    exact .ended _ (h.of_readRsp hphase).timeout
  · rw [heq]
    exact h

theorem Progress.txReady (h : Progress origin frame explen d s) (ready : Bool) :
    Progress origin frame explen d (setTxReady ready s) := by
  cases h with
  | sending h => exact .sending { h with }
  | awaiting h => exact .awaiting { h with }
  | reading h => exact .reading { h with }
  | ended k h => exact .ended k { h with outcome := h.outcome.congr rfl rfl rfl rfl }

/-- Every move of an exchange keeps the reading, with the byte it pushes, if it pushes one. -/
theorem Progress.move (h : Progress origin frame explen d s) {m : Move} (hm : exchangeMove m = true)
    (hmove : moveEffect m s = .next t) : Progress origin frame explen (d ++ pushedBytes [m]) t := by
  cases m with
  | block => simpa [pushedBytes] using h.blockEvent (blockStep_eq_next_iff.mp hmove)
  | devPush b =>
    obtain rfl := Host.Outcome.next.inj hmove
    exact h.push b
  | rxTimeout =>
    obtain rfl := Host.Outcome.next.inj hmove
    simpa [pushedBytes] using h.rxTimeout
  | txReady ready =>
    obtain rfl := Host.Outcome.next.inj hmove
    simpa [pushedBytes] using h.txReady ready
  | host | read | release | reset => cases hm

/-! ### Runs of an exchange's moves -/

theorem exists_moveEffect_of_runMoves_cons {m : Move} {ms : List Move} (h : runMoves (m :: ms) s = .next t) :
    ∃ u, moveEffect m s = .next u ∧ runMoves ms u = .next t := by
  rw [runMoves] at h
  cases hm : moveEffect m s with
  | next u => rw [hm] at h; exact ⟨u, rfl, h⟩
  | fault f => rw [hm] at h; cases h
  | refused r => rw [hm] at h; cases h

/-- What each move carries from its end back to its start, a run carries back. -/
theorem runMoves_backward {P : State → Prop} {ms : List Move}
    (hback : ∀ m ∈ ms, ∀ s t, moveEffect m s = .next t → P t → P s) (hrun : runMoves ms s = .next t) (ht : P t) :
    P s := by
  induction ms generalizing s with
  | nil =>
    obtain rfl := Host.Outcome.next.inj hrun
    exact ht
  | cons m ms ih =>
    obtain ⟨hm, hrest⟩ := List.forall_mem_cons.mp hback
    obtain ⟨u, hmove, hrun⟩ := exists_moveEffect_of_runMoves_cons hrun
    exact hm s u hmove (ih hrest hrun)

/-- Along every run of an exchange's moves the reading is that of all bytes pushed. -/
theorem Progress.run {ms : List Move} (h : Progress origin frame explen d s)
    (hms : ∀ m ∈ ms, exchangeMove m = true) (hrun : runMoves ms s = .next t) :
    Progress origin frame explen (d ++ pushedBytes ms) t := by
  induction ms generalizing s d with
  | nil =>
    obtain rfl := Host.Outcome.next.inj hrun
    rw [pushedBytes, List.append_nil]
    exact h
  | cons m ms ih =>
    obtain ⟨hm, hrest⟩ := List.forall_mem_cons.mp hms
    obtain ⟨u, hmove, hrun⟩ := exists_moveEffect_of_runMoves_cons hrun
    have hpushed : d ++ pushedBytes (m :: ms) = d ++ pushedBytes [m] ++ pushedBytes ms := by
      rw [List.append_assoc, ← pushedBytes_append, List.singleton_append]
    rw [hpushed]
    exact ih (h.move hm hmove) hrest hrun

/-- The exchange has ended by a timeout. -/
def TimedOut (s : State) : Prop := s.result = .ackTimeout ∨ s.result = .rspTimeout

/-- The block's own event ends no exchange by a timeout. -/
theorem TimedOut.of_blockEvent (h : TimedOut t) (hevent : BlockEvent s t) : TimedOut s := by
  cases hevent with
  | waits | sends | sendsLast | takesAck | acknowledged | takesRsp => exact h
  | mismatch | acknowledgedEmpty | takesLast => exact h.elim nofun nofun

/-- Only a timeout ends an exchange by a timeout. -/
theorem TimedOut.of_move {m : Move} (hm : exchangeMove m = true ∧ m ≠ .rxTimeout) (hmove : moveEffect m s = .next t)
    (h : TimedOut t) : TimedOut s := by
  obtain ⟨hm, hne⟩ := hm
  cases m with
  | block => exact h.of_blockEvent (blockStep_eq_next_iff.mp hmove)
  | devPush | txReady =>
    obtain rfl := Host.Outcome.next.inj hmove
    exact h
  | rxTimeout => exact absurd rfl hne
  | host | read | release | reset => cases hm

theorem TimedOut.of_run {ms : List Move} (h : TimedOut t)
    (hms : ∀ m ∈ ms, exchangeMove m = true ∧ m ≠ .rxTimeout) (hrun : runMoves ms s = .next t) : TimedOut s :=
  runMoves_backward (fun m hm _ _ hmove => TimedOut.of_move (hms m hm) hmove) hrun h

/-- No event of the block leads back into `SEND`. -/
theorem BlockEvent.send_of_send (hevent : BlockEvent s t) (hphase : t.phase = .send) : s.phase = .send := by
  cases hevent with
  | waits | sends | takesAck | takesRsp => exact hphase
  | sendsLast | mismatch | acknowledgedEmpty | acknowledged | takesLast => cases hphase

/-- No move of an exchange leads back into `SEND` (R135). -/
theorem moveEffect_send_of_send {m : Move} (hm : exchangeMove m = true) (hmove : moveEffect m s = .next t)
    (hphase : t.phase = .send) : s.phase = .send := by
  cases m with
  | block => exact (blockStep_eq_next_iff.mp hmove).send_of_send hphase
  | devPush | txReady =>
    obtain rfl := Host.Outcome.next.inj hmove
    exact hphase
  | rxTimeout =>
    obtain rfl := Host.Outcome.next.inj hmove
    rcases rxTimeout_cases s with ⟨-, -, -, heq⟩ | ⟨-, -, -, heq⟩ | ⟨-, heq⟩
    · rw [heq] at hphase
      cases hphase
    · rw [heq] at hphase
      cases hphase
    · rw [heq] at hphase
      exact hphase
  | host | read | release | reset => cases hm

/-- In an exchange the block's move has a next state. -/
theorem Progress.exists_blockStep (h : Progress origin frame explen d s) : ∃ t, blockStep s = .next t := by
  cases hready : blockReady s with
  | false => exact ⟨s, blockStep_waits hready⟩
  | true =>
    cases h with
    | sending h =>
      obtain ⟨b, -, hb⟩ := memLookup_of_memRead h.stored h.idx
      rw [blockReady, h.phase] at hready
      exact ⟨_, moveEffect_block_send h.phase hready (bufByte_eq_ok.mpr ⟨h.idx.trans_le h.frameFits, hb⟩)⟩
    | awaiting h =>
      obtain ⟨b, rest, hqueue⟩ : ∃ b rest, s.rxq = b :: rest :=
        List.exists_cons_of_ne_nil (by simpa [blockReady, h.phase] using hready)
      exact ⟨_, moveEffect_block_waitAck h.phase h.idx hqueue⟩
    | reading h =>
      obtain ⟨b, rest, hqueue⟩ : ∃ b rest, s.rxq = b :: rest :=
        List.exists_cons_of_ne_nil (by simpa [blockReady, h.phase] using hready)
      exact ⟨_, moveEffect_block_readRsp h.phase (h.idx.trans_le h.rspFits) hqueue⟩
    | ended k h => simp [blockReady, h.phase] at hready

/-- A bound on the events that the block has before it waits, with nothing more arriving. -/
def pendingEvents (s : State) : Nat :=
  match s.phase with
  | .idle => 0
  | .send => s.flen - s.idx + s.rxq.length
  | .waitAck => s.rxq.length
  | .readRsp => s.rxq.length

theorem pendingEvents_of_send (h : s.phase = .send) : pendingEvents s = s.flen - s.idx + s.rxq.length := by
  simp only [pendingEvents, h]

theorem pendingEvents_of_reading (h : s.phase = .waitAck ∨ s.phase = .readRsp) :
    pendingEvents s = s.rxq.length := by
  rcases h with h | h <;> simp only [pendingEvents, h]

/-- Outside `SEND` the block has at most one event for each byte that waits. -/
theorem pendingEvents_le (h : s.phase ≠ .send) : pendingEvents s ≤ s.rxq.length := by
  unfold pendingEvents
  split
  · exact Nat.zero_le _
  · next hsend => exact absurd hsend h
  · exact le_rfl
  · exact le_rfl

/-- Each event of the block is one less to come. -/
theorem Progress.pendingEvents_lt (h : Progress origin frame explen d s) (hevent : BlockEvent s t)
    (hready : blockReady s = true) : pendingEvents t < pendingEvents s := by
  cases hevent with
  | waits hwait => exact absurd (hwait.symm.trans hready) Bool.false_ne_true
  | @sends b hphase _ _ hmore =>
    have hnext : pendingEvents (nextIdx (txByte b s)) = s.flen - (s.idx + 1) + s.rxq.length :=
      pendingEvents_of_send (s := nextIdx (txByte b s)) hphase
    rw [pendingEvents_of_send hphase, hnext]
    omega
  | @sendsLast b hphase =>
    have hidx := (h.of_send hphase).idx
    have hnext : pendingEvents (enterPhase .waitAck (txByte b s)) = s.rxq.length := rfl
    rw [pendingEvents_of_send hphase, hnext]
    omega
  | @takesAck b rest hphase hqueue =>
    have hnext : pendingEvents (nextIdx (storeAck s.idx b (rxPop s))) = s.rxq.tail.length :=
      pendingEvents_of_reading (s := nextIdx (storeAck s.idx b (rxPop s))) (.inl hphase)
    rw [pendingEvents_of_reading (.inl hphase), hnext, hqueue]
    exact Nat.lt_succ_self _
  | @acknowledged b rest hphase hqueue =>
    have hnext : pendingEvents (enterPhase .readRsp (storeAck s.idx b (rxPop s))) = s.rxq.tail.length := rfl
    rw [pendingEvents_of_reading (.inl hphase), hnext, hqueue]
    exact Nat.lt_succ_self _
  | @takesRsp b rest hphase hqueue =>
    have hnext : pendingEvents (nextIdx (setRspLen (s.idx + 1) (storeBuf s.idx [b] (rxPop s)))) =
        s.rxq.tail.length :=
      pendingEvents_of_reading (s := nextIdx (setRspLen (s.idx + 1) (storeBuf s.idx [b] (rxPop s)))) (.inr hphase)
    rw [pendingEvents_of_reading (.inr hphase), hnext, hqueue]
    exact Nat.lt_succ_self _
  | mismatch hphase hqueue | acknowledgedEmpty hphase hqueue =>
    rw [pendingEvents_of_reading (.inl hphase), hqueue]
    exact Nat.zero_lt_succ _
  | takesLast hphase hqueue =>
    rw [pendingEvents_of_reading (.inr hphase), hqueue]
    exact Nat.zero_lt_succ _

/-- With enough moves of its own, the block comes to a point at which it has no event left. -/
theorem Progress.run_block {n : Nat} (h : Progress origin frame explen d s) (hn : pendingEvents s ≤ n) :
    ∃ t, runMoves (List.replicate n .block) s = .next t ∧ blockReady t = false := by
  induction n generalizing s with
  | zero =>
    refine ⟨s, rfl, Bool.eq_false_iff.mpr fun hready => ?_⟩
    obtain ⟨t, hstep⟩ := h.exists_blockStep
    have hlt := h.pendingEvents_lt (blockStep_eq_next_iff.mp hstep) hready
    omega
  | succ n ih =>
    cases hready : blockReady s with
    | false => exact ⟨s, runMoves_block_waits hready (n + 1), hready⟩
    | true =>
      obtain ⟨u, hstep⟩ := h.exists_blockStep
      have hevent := blockStep_eq_next_iff.mp hstep
      have hlt := h.pendingEvents_lt hevent hready
      obtain ⟨t, hrun, hquiet⟩ := ih (h.blockEvent hevent) (by omega)
      exact ⟨t, (runMoves_cons_of_next (m := .block) hstep).trans hrun, hquiet⟩

/-- The moves of the block are moves of an exchange, and push nothing. -/
theorem exchangeMove_of_mem_replicate {n : Nat} : ∀ m ∈ List.replicate n Move.block,
    exchangeMove m = true ∧ m ≠ .rxTimeout := by
  intro m hm
  rw [List.eq_of_mem_replicate hm]
  exact ⟨rfl, by decide⟩

theorem pushedBytes_replicate_block (n : Nat) : pushedBytes (List.replicate n .block) = [] := by
  induction n with
  | zero => rfl
  | succ n ih => exact ih

theorem runMoves_send_of_send {ms : List Move} (hms : ∀ m ∈ ms, exchangeMove m = true)
    (hrun : runMoves ms s = .next t) (hphase : t.phase = .send) : s.phase = .send :=
  runMoves_backward (P := fun u => u.phase = .send)
    (fun m hm _ _ hmove => moveEffect_send_of_send (hms m hm) hmove) hrun hphase

/-- In an exchange no more waits in the queue than has been pushed. -/
theorem Progress.queue_length_le (h : Progress origin frame explen d s) : s.rxq.length ≤ d.length := by
  cases h with
  | sending h => rw [h.queue]
  | awaiting h | reading h | ended k h =>
    rw [h.queue, List.length_drop]
    exact Nat.sub_le _ _

/-- A block with no event left that waits for a byte has taken everything pushed. -/
theorem AwaitingAck.idx_of_quiet (h : AwaitingAck origin frame explen d s) (hquiet : blockReady s = false) :
    s.idx = d.length := by
  have hempty : s.rxq = [] := by simpa [blockReady, h.phase] using hquiet
  have hlen := List.drop_eq_nil_iff.mp (h.queue.symm.trans hempty)
  exact le_antisymm h.taken hlen

theorem ReadingResponse.idx_of_quiet (h : ReadingResponse origin frame explen d s) (hquiet : blockReady s = false) :
    6 + s.idx = d.length := by
  have hempty : s.rxq = [] := by simpa [blockReady, h.phase] using hquiet
  have hlen := List.drop_eq_nil_iff.mp (h.queue.symm.trans hempty)
  exact le_antisymm h.taken hlen

/-! ### What no move of an exchange changes -/

theorem runMoves_txReady {ms : List Move} (hms : ∀ m ∈ ms, ∀ ready, m ≠ .txReady ready)
    (hrun : runMoves ms s = .next t) : t.txReady = s.txReady :=
  runMoves_backward (P := fun u => t.txReady = u.txReady)
    (fun m hm _ _ hmove h => h.trans (moveEffect_txReady (hms m hm) hmove)) hrun rfl

theorem runMoves_cfg {ms : List Move} (hrun : runMoves ms s = .next t) : t.cfg = s.cfg :=
  runMoves_backward (P := fun u => t.cfg = u.cfg) (fun _ _ _ _ hmove h => h.trans (moveEffect_cfg hmove)) hrun rfl

theorem moveEffect_program {m : Move} (h : moveEffect m s = .next t) : t.program = s.program := by
  rcases moveEffect_eq_next h with ⟨-, rfl⟩ | ⟨-, hblock⟩ | ⟨_, -, rfl⟩ | ⟨-, rfl⟩ | ⟨_, -, rfl⟩ | ⟨_, _, -, rfl⟩
    | ⟨-, rfl⟩ | ⟨-, rfl⟩
  · rfl
  · rw [blockStep_frame hblock]
  · rfl
  · rw [rxTimeout_frame]
  · rfl
  · rfl
  · exact releaseResult_program s
  · rfl

theorem runMoves_program {ms : List Move} (hrun : runMoves ms s = .next t) : t.program = s.program :=
  runMoves_backward (P := fun u => t.program = u.program)
    (fun _ _ _ _ hmove h => h.trans (moveEffect_program hmove)) hrun rfl

/-! ### A schedule of an exchange's moves is their run -/

/-- The block's event does not depend on the schedule. -/
theorem BlockEvent.with_schedule (hevent : BlockEvent s t) (ms : List Move) :
    BlockEvent { s with schedule := ms } { t with schedule := ms } := by
  cases hevent with
  | waits hready => exact .waits hready
  | sends hphase hready hbyte hmore => exact .sends hphase hready hbyte hmore
  | sendsLast hphase hready hbyte hlast => exact .sendsLast hphase hready hbyte hlast
  | takesAck hphase hqueue hmore => exact .takesAck hphase hqueue hmore
  | mismatch hphase hqueue hsixth hack => exact .mismatch hphase hqueue hsixth hack
  | acknowledgedEmpty hphase hqueue hsixth hack hexp => exact .acknowledgedEmpty hphase hqueue hsixth hack hexp
  | acknowledged hphase hqueue hsixth hack hexp => exact .acknowledged hphase hqueue hsixth hack hexp
  | takesRsp hphase hqueue hinside hmore => exact .takesRsp hphase hqueue hinside hmore
  | takesLast hphase hqueue hinside hlast => exact .takesLast hphase hqueue hinside hlast

theorem rxTimeout_with_schedule (s : State) (ms : List Move) :
    rxTimeout { s with schedule := ms } = { rxTimeout s with schedule := ms } := by
  rcases rxTimeout_cases s with ⟨hmay, hrxq, hphase, heq⟩ | ⟨hmay, hrxq, hphase, heq⟩ | ⟨hnot, heq⟩
  · rw [heq]
    exact rxTimeout_of_waitAck (s := { s with schedule := ms }) hmay hrxq hphase
  · rw [heq]
    exact rxTimeout_of_readRsp (s := { s with schedule := ms }) hmay hrxq hphase
  · rw [heq]
    exact rxTimeout_of_not_enabled (s := { s with schedule := ms }) hnot

theorem moveEffect_with_schedule {m : Move} (hm : exchangeMove m = true) (hmove : moveEffect m s = .next t)
    (ms : List Move) : moveEffect m { s with schedule := ms } = .next { t with schedule := ms } := by
  cases m with
  | block => exact blockStep_eq_next_iff.mpr ((blockStep_eq_next_iff.mp hmove).with_schedule ms)
  | devPush | txReady =>
    obtain rfl := Host.Outcome.next.inj hmove
    rfl
  | rxTimeout =>
    obtain rfl := Host.Outcome.next.inj hmove
    exact congrArg _ (rxTimeout_with_schedule s ms)
  | host | read | release | reset => cases hm

/-- A schedule made of an exchange's moves is run by as many steps as it has moves. -/
theorem runSteps_of_runMoves {ms : List Move} (hms : ∀ m ∈ ms, exchangeMove m = true)
    (hrun : runMoves ms s = .next t) :
    runSteps ms.length { s with schedule := ms } = .next { t with schedule := [] } := by
  induction ms generalizing s with
  | nil =>
    obtain rfl := Host.Outcome.next.inj hrun
    rfl
  | cons m ms ih =>
    obtain ⟨hm, hrest⟩ := List.forall_mem_cons.mp hms
    obtain ⟨u, hmove, hrun⟩ := exists_moveEffect_of_runMoves_cons hrun
    have hnext : nextMove { s with schedule := m :: ms } = m := rfl
    have hhost : m ≠ .host := by rintro rfl; cases hm
    have hstep : step { s with schedule := m :: ms } = .next { u with schedule := ms } := by
      rw [step_of_ne_host (by rw [hnext]; exact hhost), hnext]
      exact moveEffect_with_schedule hm hmove ms
    rw [List.length_cons, runSteps, hstep]
    exact ih hrest hrun

/-- The host's move with an acceptable command in front accepts it (R122). -/
theorem step_command {caller : Caller} {code : Byte} {params : List Byte} {rest : List Line} {ms : List Move}
    (hidle : s.phase = .idle) (hcontract : WithinContract s caller params explen) :
    step { s with program := .command caller (code :: params) explen :: rest, schedule := .host :: ms } =
      .next { retire (accept caller code params explen
        { s with program := .command caller (code :: params) explen :: rest }) with schedule := ms } := by
  obtain ⟨howner, hfits, hexp⟩ := hcontract
  rw [step_of_host rfl, hostStep_of_decode rfl rfl]
  exact requestExchange_eq_next.mpr ⟨howner, .inr ⟨hidle, hfits, hexp, rfl⟩⟩

/-! ### The device's bytes arriving in a row -/

theorem runMoves_pushes (bs : List Byte) (s : State) : runMoves (bs.map .devPush) s = .next (rxPush bs s) := by
  induction bs generalizing s with
  | nil => simp [runMoves, rxPush]
  | cons b bs ih =>
    rw [List.map_cons, runMoves_cons_of_next rfl, ih]
    simp [rxPush]

theorem pushedBytes_map_devPush (bs : List Byte) : pushedBytes (bs.map .devPush) = bs := by
  induction bs with
  | nil => rfl
  | cons b bs ih => rw [List.map_cons, pushedBytes, ih]

/-! ### The exchange as one function -/

theorem exchange_of_short (h : d.length < 6) : exchange explen d = ⟨.ackTimeout, [], []⟩ := by
  rw [exchange, if_pos h]

theorem exchange_of_mismatch (h : 6 ≤ d.length) (hack : d.take 6 ≠ ackConst) :
    exchange explen d = ⟨.ackMismatch, [], d.drop 6⟩ := by
  rw [exchange, if_neg (not_lt.mpr h), if_pos (show slice d 0 6 ≠ ackConst from hack)]

theorem exchange_of_cut (h : 6 ≤ d.length) (hack : d.take 6 = ackConst) (hcut : d.length < 6 + explen) :
    exchange explen d = ⟨.rspTimeout, d.drop 6, []⟩ := by
  rw [exchange, if_neg (not_lt.mpr h), if_neg (not_not.mpr (show slice d 0 6 = ackConst from hack)), if_pos hcut]

theorem exchange_of_ok (h : 6 + explen ≤ d.length) (hack : d.take 6 = ackConst) :
    exchange explen d = ⟨.ok, slice d 6 (6 + explen), d.drop (6 + explen)⟩ := by
  rw [exchange, if_neg (by omega), if_neg (not_not.mpr (show slice d 0 6 = ackConst from hack)),
    if_neg (not_lt.mpr h)]

/-- An ended exchange that has not timed out with bytes still waiting is what `EXCHANGE` gives (R139). -/
theorem Ended.exchange_eq {k : Nat} (h : Ended origin frame explen d k s) (hall : TimedOut s → k = d.length) :
    ∃ rsp, rspRaw s = .ok rsp ∧ exchange explen d = ⟨s.result, rsp, s.rxq⟩ := by
  have htaken := h.taken
  rw [h.queue]
  cases h.outcome with
  | ackTimeout hresult hk hrsp =>
    obtain rfl := hall (.inl hresult)
    exact ⟨_, hrsp, by rw [exchange_of_short hk, hresult, List.drop_length]⟩
  | ackMismatch hresult hk hack hrsp =>
    exact ⟨_, hrsp, by rw [exchange_of_mismatch (by omega) hack, hresult, hk]⟩
  | rspTimeout hresult hmin hmax hack hrsp =>
    obtain rfl := hall (.inr hresult)
    have hrest : slice d 6 d.length = d.drop 6 := List.take_of_length_le (by rw [List.length_drop])
    exact ⟨_, hrsp, by rw [exchange_of_cut hmin hack hmax, hresult, hrest, List.drop_length]⟩
  | ok hresult hk hack hrsp =>
    exact ⟨_, hrsp, by rw [exchange_of_ok (by omega) hack, hresult, hk]⟩

/-- Where the block has no event left, a timeout ends the exchange, which has then taken everything pushed. -/
theorem Progress.ended_of_quiet (h : Progress origin frame explen d s) (hquiet : blockReady s = false)
    (hready : s.txReady = true) (hmay : s.cfg.transportMayTimeOut = true) (hnot : ¬ TimedOut s) :
    ∃ k, Ended origin frame explen d k (Machine.rxTimeout s) ∧ (TimedOut (Machine.rxTimeout s) → k = d.length) := by
  cases h with
  | sending h => simp [blockReady, h.phase, hready] at hquiet
  | awaiting h =>
    have hempty : s.rxq = [] := by simpa [blockReady, h.phase] using hquiet
    rw [rxTimeout_of_waitAck hmay hempty h.phase]
    exact ⟨_, h.timeout, fun _ => h.idx_of_quiet hquiet⟩
  | reading h =>
    have hempty : s.rxq = [] := by simpa [blockReady, h.phase] using hquiet
    rw [rxTimeout_of_readRsp hmay hempty h.phase]
    exact ⟨_, h.timeout, fun _ => h.idx_of_quiet hquiet⟩
  | ended k h =>
    rw [rxTimeout_of_not_enabled (.inr (.inr (.inl h.phase)))]
    exact ⟨k, h, fun htimed => absurd htimed hnot⟩

/-- The moves of one whole exchange: the device's bytes, enough moves of the block, and a timeout. -/
def wholeExchange (d : List Byte) (n : Nat) : List Move :=
  d.map .devPush ++ List.replicate n .block ++ [.rxTimeout]

theorem exchangeMove_of_mem_wholeExchange {n : Nat} : ∀ m ∈ wholeExchange d n, exchangeMove m = true := by
  intro m hm
  simp only [wholeExchange, List.mem_append, List.mem_map, List.mem_singleton] at hm
  rcases hm with (⟨b, -, rfl⟩ | hblock) | rfl
  · rfl
  · exact (exchangeMove_of_mem_replicate m hblock).1
  · rfl

theorem wholeExchange_length (d : List Byte) (n : Nat) : (wholeExchange d n).length = d.length + n + 1 := by
  simp [wholeExchange, Nat.add_assoc]

/-- A whole exchange from the start of `SEND` ends, with all its bytes taken if by a timeout. -/
theorem Progress.run_wholeExchange {n : Nat} (h : Progress origin frame explen [] s) (hphase : s.phase = .send)
    (hready : s.txReady = true) (hmay : s.cfg.transportMayTimeOut = true) (hnot : ¬ TimedOut s)
    (hn : frame.length + d.length ≤ n) :
    ∃ t k, runMoves (wholeExchange d n) s = .next t ∧ Ended origin frame explen d k t ∧
      (TimedOut t → k = d.length) := by
  have hpush : ∀ m ∈ d.map Move.devPush, exchangeMove m = true := by
    intro m hm
    obtain ⟨b, -, rfl⟩ := List.mem_map.mp hm
    rfl
  have harrived := h.run hpush (runMoves_pushes d s)
  rw [List.nil_append, pushedBytes_map_devPush] at harrived
  have hpending : pendingEvents (rxPush d s) ≤ n := by
    have hflen := (harrived.of_send hphase).flen
    have hqueue := (harrived.of_send hphase).queue
    rw [pendingEvents_of_send (s := rxPush d s) hphase, hflen, hqueue]
    omega
  obtain ⟨u, hblocks, hquiet⟩ := harrived.run_block hpending
  have hrest := harrived.run (fun m hm => (exchangeMove_of_mem_replicate m hm).1) hblocks
  rw [pushedBytes_replicate_block, List.append_nil] at hrest
  have hreadyu : u.txReady = true := by
    refine (runMoves_txReady (fun m hm ready => ?_) hblocks).trans hready
    rw [List.eq_of_mem_replicate hm]
    exact nofun
  have hmayu : u.cfg.transportMayTimeOut = true := by rw [runMoves_cfg hblocks]; exact hmay
  have hnotu : ¬ TimedOut u := fun htimed =>
    hnot (htimed.of_run (s := rxPush d s) exchangeMove_of_mem_replicate hblocks)
  obtain ⟨k, hended, hall⟩ := hrest.ended_of_quiet hquiet hreadyu hmayu hnotu
  have hrun : runMoves (wholeExchange d n) s = .next (Machine.rxTimeout u) := by
    rw [wholeExchange, List.append_assoc, runMoves_append (runMoves_pushes d s), runMoves_append hblocks]
    rfl
  exact ⟨_, k, hrun, hended, hall⟩

/-! ### Well-behaved devices -/

/-- With the acknowledgment in front, the exchange takes as many bytes behind it as declared (R184). -/
theorem exchange_ack_append {response : List Byte} (h : explen ≤ response.length) :
    exchange explen (ackConst ++ response) = ⟨.ok, response.take explen, response.drop explen⟩ := by
  have hlen : (ackConst ++ response).length = 6 + response.length := List.length_append
  have hslice : slice (ackConst ++ response) 6 (6 + explen) = response.take explen := by
    rw [slice, Nat.add_sub_cancel_left]
    rfl
  have hdrop : (ackConst ++ response).drop (6 + explen) = response.drop explen := by
    rw [← List.drop_drop]
    rfl
  rw [exchange_of_ok (by omega) rfl, hslice, hdrop]

/-- Eight bytes or more are a header, a payload and a trailer, and stripping them gives the payload (R106). -/
theorem exists_parts_of_eight_le {rsp : List Byte} (h : 8 ≤ rsp.length) :
    ∃ header payload trailer, header.length = 6 ∧ trailer.length = 2 ∧ rsp = header ++ payload ++ trailer ∧
      stripFrame rsp = some payload := by
  refine ⟨rsp.take 6, slice rsp 6 (rsp.length - 2), rsp.drop (rsp.length - 2), ?header, ?trailer,
    (take_append_slice_append_drop rsp (by omega)).symm, stripFrame_eq_some rsp h⟩
  case header => rw [List.length_take]; omega
  case trailer => rw [List.length_drop]; omega

/-- While the frame is being sent, `TXLOG` has not grown by a well-formed frame: what it has grown by is a proper part
of one. -/
theorem SendingFrame.frameSentSince_eq_false {code : Byte} {params : List Byte}
    (h : SendingFrame origin (encodeFrame code params) explen d s) (hparams : params.length ≤ 253) :
    frameSentSince origin s = false := by
  have hidx : s.idx < 9 + params.length := by
    have hlt := h.idx
    rw [h.flen, encodeFrame_length] at hlt
    exact hlt
  refine Bool.and_eq_false_iff.mpr ?_
  rw [h.sent, List.drop_left]
  rcases Nat.lt_or_ge s.idx 9 with hshort | hnine
  · refine .inl (decide_eq_false ?_)
    rw [List.length_append, List.length_take, encodeFrame_length]
    omega
  · exact .inr (frameWellFormed_take_encodeFrame hparams hidx hnine)

/-- Before the frame has been sent, a well-behaved device has pushed nothing (R58). -/
theorem Progress.pushedBytes_of_send {code : Byte} {params : List Byte} {ms after : List Move}
    (h : Progress origin (encodeFrame code params) explen d s) (hparams : params.length ≤ 253)
    (hms : ∀ m ∈ ms, exchangeMove m = true) (hdevice : pushesOnlyAfterFrame origin (ms ++ after) s = true)
    (hrun : runMoves ms s = .next t) (hphase : t.phase = .send) : pushedBytes ms = [] := by
  have hsend := runMoves_send_of_send hms hrun hphase
  induction ms generalizing s d with
  | nil => rfl
  | cons m ms ih =>
    obtain ⟨hm, hrest⟩ := List.forall_mem_cons.mp hms
    obtain ⟨u, hmove, hrun⟩ := exists_moveEffect_of_runMoves_cons hrun
    simp only [List.cons_append, pushesOnlyAfterFrame, hmove, Bool.and_eq_true] at hdevice
    obtain ⟨hpush, hdevice⟩ := hdevice
    have hlater := ih (h.move hm hmove) hrest hdevice hrun (runMoves_send_of_send hrest hrun hphase)
    cases m with
    | devPush b =>
      rw [(h.of_send hsend).frameSentSince_eq_false hparams] at hpush
      cases hpush
    | block | rxTimeout | txReady => exact hlater
    | host | read | release | reset => cases hm

/-- With the whole answer pushed and no timeout, a block with no event left that is not sending has ended the exchange
with `OK` and taken the response (R58). -/
theorem Progress.ok_of_quiet {rsp : List Byte} (h : Progress origin frame rsp.length (ackConst ++ rsp) s)
    (hquiet : blockReady s = false) (hphase : s.phase ≠ .send) (hnot : ¬ TimedOut s) :
    s.phase = .idle ∧ s.result = .ok ∧ s.rxq = [] ∧ s.txlog = origin ++ frame ∧ rspRaw s = .ok rsp := by
  have hlen : (ackConst ++ rsp).length = 6 + rsp.length := List.length_append
  cases h with
  | sending h => exact absurd h.phase hphase
  | awaiting h =>
    have hidx := h.idx
    have hall := h.idx_of_quiet hquiet
    omega
  | reading h =>
    have hidx := h.idx
    have hall := h.idx_of_quiet hquiet
    omega
  | ended k h =>
    cases h.outcome with
    | ackTimeout hresult => exact absurd (.inl hresult) hnot
    | rspTimeout hresult => exact absurd (.inr hresult) hnot
    | ackMismatch _ _ hack => exact absurd rfl hack
    | ok hresult hk _ hrsp =>
      have hslice : slice (ackConst ++ rsp) 6 (6 + rsp.length) = rsp := by
        rw [slice, Nat.add_sub_cancel_left]
        exact List.take_length
      rw [hk, hslice] at hrsp
      exact ⟨h.phase, hresult, by rw [h.queue, hk, ← hlen, List.drop_length], h.sent, hrsp⟩

end Sys2Proof.Machine

namespace Sys2Proof.Proofs

open Sys2Proof Sys2Proof.Machine

/-- Settles O44: the first step accepts the command; the scheduled moves are their run, which ends the exchange; and an
ended exchange is what `EXCHANGE` gives. -/
theorem exchangeAsOneFunction : Obligations.ExchangeAsOneFunction := by
  intro s caller code params explen d hidle hcontract hready hmay
  have ⟨_, hfits, hexp⟩ := hcontract
  have hstart := (accepted_retire_accept caller code params explen
    { s with program := .command caller (code :: params) explen :: s.program }).progress hfits hexp
  have hn : (encodeFrame code params).length + d.length ≤ 9 + params.length + d.length := by
    rw [encodeFrame_length]
  obtain ⟨t, k, hrun, hended, hall⟩ := hstart.run_wholeExchange rfl hready hmay (fun h => h.elim nofun nofun) hn
  obtain ⟨rsp, hrsp, hexchange⟩ := hended.exchange_eq hall
  have hcount : 1 + d.length + (9 + params.length + d.length) + 1 =
      (wholeExchange d (9 + params.length + d.length)).length + 1 := by
    rw [wholeExchange_length]
    omega
  have hprogram := runMoves_program hrun
  refine ⟨{ t with schedule := [] }, ?run, hended.phase, hprogram, by rw [hexchange], ?rsp,
    by rw [hexchange], hended.sent⟩
  case rsp =>
    rw [hexchange]
    exact (rspRaw_congr (s := t) (t := { t with schedule := [] }) rfl rfl fun _ _ => rfl).trans hrsp
  case run =>
    rw [hcount, runSteps, ← wholeExchange, step_command hidle hcontract]
    exact runSteps_of_runMoves exchangeMove_of_mem_wholeExchange hrun

/-- Settles O45: the reading is kept by every move, from acceptance on; in `IDLE` it is the statement. -/
theorem everyInterleavingEndsAsTheBytesSay : Obligations.EveryInterleavingEndsAsTheBytesSay := by
  intro s t0 t caller code params explen ms hidle hexec hms hrun hphase
  obtain ⟨hfits, hexp, rfl⟩ := requestExchange_idle hidle hexec
  have hstart := (accepted_retire_accept caller code params explen s).progress hfits hexp
  have hprogress := hstart.run hms hrun
  rw [List.nil_append] at hprogress
  obtain ⟨k, hended⟩ := hprogress.of_idle hphase
  refine ⟨hended.sent, k, hended.taken, hended.queue, ?_⟩
  cases hended.outcome with
  | ackTimeout hresult hk hrsp => exact .inl ⟨hresult, hk, hrsp⟩
  | ackMismatch hresult hk hack hrsp => exact .inr (.inl ⟨hresult, hk, hack, hrsp⟩)
  | rspTimeout hresult hmin hmax hack hrsp => exact .inr (.inr (.inl ⟨hresult, hmin, hmax, hack, hrsp⟩))
  | ok hresult hk hack hrsp => exact .inr (.inr (.inr ⟨hresult, hk, hack, hrsp⟩))

/-- Settles O48: with the acknowledgment in front the declared number of bytes is the response; a stray byte in front
moves the acknowledgment's fifth byte to where its sixth should be. -/
theorem wellBehavedDeviceGivesItsPayload : Obligations.WellBehavedDeviceGivesItsPayload := by
  refine ⟨?answer, fun stray explen rest => ?stray, fun explen response => exchange_ack_append⟩
  case answer =>
    rintro dir _ ⟨rsp, hwf, rfl⟩
    obtain ⟨hlen, -⟩ := frameWellFormed_iff.mp hwf
    obtain ⟨header, payload, trailer, hheader, htrailer, hparts, hstrip⟩ := exists_parts_of_eight_le hlen
    have hexplen : (ackConst ++ rsp).length - 6 = rsp.length := by
      rw [List.length_append]
      exact Nat.add_sub_cancel_left 6 rsp.length
    have hexchange : exchange rsp.length (ackConst ++ rsp) = ⟨.ok, rsp, []⟩ := by
      rw [exchange_ack_append le_rfl, List.take_length, List.drop_length]
    refine ⟨header, payload, trailer, hheader, htrailer, by rw [← hparts], ?_, ?_⟩
    · rw [hexplen, hexchange, ← hparts]
    · rw [hexplen, hexchange]
      exact hstrip
  case stray =>
    have hsix : (stray :: ackConst ++ rest).take 6 ≠ ackConst := by
      intro hack
      have hfifth : (0xFF#8 : Byte) = 0x00#8 := Option.some.inj (congrArg (·[5]?) hack)
      exact absurd hfifth (by decide)
    rw [exchange_of_mismatch (by simp [ackConst]) hsix]
    rfl

/-- Settles O52: while the block sends, the device has pushed nothing, since what `TXLOG` has grown by is no well-formed
frame yet; once it has, the whole answer has been pushed and the block has at most one event for each byte of it. -/
theorem wellBehavedDeviceCompletesTheExchange : Obligations.WellBehavedDeviceCompletesTheExchange := by
  intro s t caller code params dir answer ms hlegal hidle hexec hms hdevice
  obtain ⟨hfits, hexp, rfl⟩ := requestExchange_idle hidle hexec
  obtain ⟨⟨rsp, hwf, rfl⟩, hafter, -, hanswers⟩ := hdevice
  obtain ⟨-, hcap⟩ := hlegal
  have hparams : params.length ≤ 253 := by omega
  have hexplen : (ackConst ++ rsp).length - 6 = rsp.length := by
    rw [List.length_append]
    exact Nat.add_sub_cancel_left 6 rsp.length
  rw [hexplen] at hexp hafter hanswers ⊢
  have hstart := (accepted_retire_accept caller code params rsp.length s).progress hfits hexp
  have hmoves : ∀ m ∈ ms, exchangeMove m = true := fun m hm => (hms m hm).1
  constructor
  · rintro before after u rfl hrun hphase
    have hbefore : ∀ m ∈ before, exchangeMove m = true := fun m hm => hmoves m (List.mem_append_left after hm)
    have hnone := hstart.pushedBytes_of_send hparams hbefore hafter hrun hphase
    have hqueue := ((hstart.run hbefore hrun).of_send hphase).queue
    rw [hqueue, hnone, List.append_nil]
  · intro u hrun hsent
    have hprogress := hstart.run hmoves hrun
    rw [hanswers u hrun hsent, List.nil_append] at hprogress
    have hphase : u.phase ≠ .send := fun hsend =>
      absurd (((hprogress.of_send hsend).frameSentSince_eq_false hparams).symm.trans hsent) Bool.false_ne_true
    have hpending := (pendingEvents_le hphase).trans hprogress.queue_length_le
    obtain ⟨v, hblocks, hquiet⟩ := hprogress.run_block hpending
    have hend := hprogress.run (fun m hm => (exchangeMove_of_mem_replicate m hm).1) hblocks
    rw [pushedBytes_replicate_block, List.append_nil] at hend
    have hsendv : v.phase ≠ .send := fun hsend =>
      hphase (runMoves_send_of_send (fun m hm => (exchangeMove_of_mem_replicate m hm).1) hblocks hsend)
    have hnot : ¬ TimedOut v := fun htimed =>
      ((htimed.of_run exchangeMove_of_mem_replicate hblocks).of_run hms hrun).elim nofun nofun
    obtain ⟨hv, hok, hrxq, htxlog, hraw⟩ := hend.ok_of_quiet hquiet hsendv hnot
    obtain ⟨hlen, -⟩ := frameWellFormed_iff.mp hwf
    obtain ⟨header, payload, trailer, hheader, htrailer, hparts, hstrip⟩ := exists_parts_of_eight_le hlen
    exact ⟨v, header, payload, trailer, (runMoves_append hrun).trans hblocks, hv, hok, hrxq, htxlog, hheader, htrailer,
      by rw [← hparts], hparts ▸ hraw, hparts ▸ hstrip⟩

end Sys2Proof.Proofs
end

section
/-! No byte of the payload selects any behaviour (R87): two runs of the same moves from two acceptances that differ in
the bytes of the command alone stay alike in everything but the bytes of the frame, in `BUF` and on the wire. -/

namespace Sys2Proof.Machine

variable {s t : State} {buf : Memory} {txlog : List Byte}

/-- The state `s` and the one that differs from it in holding `buf` and `txlog` behave alike: as many bytes have been
sent, the same bytes of `BUF` have a value, and the response stored so far is the same. -/
structure Alike (s : State) (buf : Memory) (txlog : List Byte) : Prop where
  sent : txlog.length = s.txlog.length
  valued : ∀ a, (memLookup buf a).isSome = (memLookup s.buf a).isSome
  response : ∀ a, a < s.rspLen → memLookup buf a = memLookup s.buf a
  beforeResponse : s.phase = .send ∨ s.phase = .waitAck → s.rspLen = 0
  duringResponse : s.phase = .readRsp → s.rspLen = s.idx

/-- Which addresses have a value after a write depends on its length alone. -/
theorem isSome_memLookup_memWrite {m : Memory} {a : Nat} {bs bs' : List Byte} (h : bs'.length = bs.length) (c : Nat) :
    (memLookup (memWrite m a bs') c).isSome = (memLookup (memWrite m a bs) c).isSome := by
  by_cases hout : c < a ∨ a + bs.length ≤ c
  · rw [memLookup_memWrite_outside bs m a c hout, memLookup_memWrite_outside bs' m a c (by rw [h]; exact hout)]
  · obtain ⟨i, rfl⟩ : ∃ i, c = a + i := Nat.exists_eq_add_of_le (by omega)
    rw [memLookup_memWrite_inside bs m a i (by omega), memLookup_memWrite_inside bs' m a i (by omega)]
    rfl

/-- Storing the same byte in both buffers keeps what they have in common. -/
theorem isSome_memLookup_memWrite_singleton {m m' : Memory}
    (h : ∀ a, (memLookup m' a).isSome = (memLookup m a).isSome) (n : Nat) (b : Byte) (a : Nat) :
    (memLookup (memWrite m' n [b]) a).isSome = (memLookup (memWrite m n [b]) a).isSome := by
  simp only [memWrite]
  by_cases ha : a = n
  · rw [ha, memLookup_memInsert_self, memLookup_memInsert_self]
  · rw [memLookup_memInsert_ne m' b ha, memLookup_memInsert_ne m b ha, h a]

theorem memLookup_memWrite_singleton_congr {m m' : Memory} {n : Nat}
    (h : ∀ a, a < n → memLookup m' a = memLookup m a) (b : Byte) (a : Nat) (ha : a < n + 1) :
    memLookup (memWrite m' n [b]) a = memLookup (memWrite m n [b]) a := by
  simp only [memWrite]
  rcases Nat.lt_succ_iff_lt_or_eq.mp ha with hlt | rfl
  · rw [memLookup_memInsert_ne m' b hlt.ne, memLookup_memInsert_ne m b hlt.ne, h a hlt]
  · rw [memLookup_memInsert_self, memLookup_memInsert_self]

/-- Where one of two alike states can send its byte, the other can send its own. -/
theorem Alike.exists_bufByte (h : Alike s buf txlog) {b : Byte} (hb : bufByte s s.idx = .ok b) :
    ∃ b', bufByte { s with buf := buf, txlog := txlog } s.idx = .ok b' := by
  obtain ⟨hcap, hlookup⟩ := bufByte_eq_ok.mp hb
  obtain ⟨b', hb'⟩ := Option.isSome_iff_exists.mp ((h.valued s.idx).trans (by rw [hlookup]; rfl))
  exact ⟨b', bufByte_eq_ok.mpr ⟨hcap, hb'⟩⟩

/-- A byte sent by each keeps the numbers of bytes sent equal. -/
theorem Alike.sent_append (h : Alike s buf txlog) (b b' : Byte) :
    (txlog ++ [b']).length = (s.txlog ++ [b]).length := by
  simp only [List.length_append, List.length_singleton, h.sent]

/-- The response byte that is taken is stored in both buffers. -/
theorem Alike.storeRsp (h : Alike s buf txlog) (hphase : s.phase = .readRsp) (b : Byte) :
    (∀ a, (memLookup (memWrite buf s.idx [b]) a).isSome = (memLookup (memWrite s.buf s.idx [b]) a).isSome) ∧
    (∀ a, a < s.idx + 1 → memLookup (memWrite buf s.idx [b]) a = memLookup (memWrite s.buf s.idx [b]) a) :=
  ⟨isSome_memLookup_memWrite_singleton h.valued s.idx b,
    memLookup_memWrite_singleton_congr (fun a ha => h.response a (by rw [h.duringResponse hphase]; exact ha)) b⟩

/-- Each event of one of two alike states is an event of the other, and leaves them alike. -/
theorem Alike.blockEvent (h : Alike s buf txlog) (hevent : BlockEvent s t) :
    ∃ buf' txlog', BlockEvent { s with buf := buf, txlog := txlog } { t with buf := buf', txlog := txlog' } ∧
      Alike t buf' txlog' := by
  cases hevent with
  | waits hready => exact ⟨buf, txlog, .waits hready, h⟩
  | @sends b hphase hready hbyte hmore =>
    obtain ⟨b', hb'⟩ := h.exists_bufByte hbyte
    exact ⟨buf, txlog ++ [b'], .sends hphase hready hb' hmore, { h with
      sent := h.sent_append b b', duringResponse := by simp [hphase] }⟩
  | @sendsLast b hphase hready hbyte hlast =>
    obtain ⟨b', hb'⟩ := h.exists_bufByte hbyte
    exact ⟨buf, txlog ++ [b'], .sendsLast hphase hready hb' hlast, { h with
      sent := h.sent_append b b'
      beforeResponse := fun _ => h.beforeResponse (.inl hphase)
      duringResponse := nofun }⟩
  | takesAck hphase hqueue hmore =>
    exact ⟨buf, txlog, .takesAck hphase hqueue hmore, { h with duringResponse := by simp [hphase] }⟩
  | mismatch hphase hqueue hsixth hack =>
    exact ⟨buf, txlog, .mismatch hphase hqueue hsixth hack, { h with
      beforeResponse := fun hp => hp.elim nofun nofun, duringResponse := nofun }⟩
  | acknowledgedEmpty hphase hqueue hsixth hack hexp =>
    exact ⟨buf, txlog, .acknowledgedEmpty hphase hqueue hsixth hack hexp, { h with
      beforeResponse := fun hp => hp.elim nofun nofun, duringResponse := nofun }⟩
  | acknowledged hphase hqueue hsixth hack hexp =>
    exact ⟨buf, txlog, .acknowledged hphase hqueue hsixth hack hexp, { h with
      beforeResponse := fun hp => hp.elim nofun nofun
      duringResponse := fun _ => h.beforeResponse (.inr hphase) }⟩
  | @takesRsp b _ hphase hqueue hinside hmore =>
    obtain ⟨hvalued, hresponse⟩ := h.storeRsp hphase b
    exact ⟨memWrite buf s.idx [b], txlog, .takesRsp hphase hqueue hinside hmore, {
      sent := h.sent
      valued := hvalued
      response := hresponse
      beforeResponse := by simp [hphase]
      duringResponse := fun _ => rfl }⟩
  | @takesLast b _ hphase hqueue hinside hlast =>
    obtain ⟨hvalued, hresponse⟩ := h.storeRsp hphase b
    exact ⟨memWrite buf s.idx [b], txlog, .takesLast hphase hqueue hinside hlast, {
      sent := h.sent
      valued := hvalued
      response := hresponse
      beforeResponse := fun hp => hp.elim nofun nofun
      duringResponse := nofun }⟩

/-- A timeout, too, is the same in both. -/
theorem Alike.rxTimeout (h : Alike s buf txlog) :
    Machine.rxTimeout { s with buf := buf, txlog := txlog } =
      { Machine.rxTimeout s with buf := buf, txlog := txlog } ∧ Alike (Machine.rxTimeout s) buf txlog := by
  rcases rxTimeout_cases s with ⟨hmay, hrxq, hphase, heq⟩ | ⟨hmay, hrxq, hphase, heq⟩ | ⟨hnot, heq⟩
  · rw [heq]
    exact ⟨rxTimeout_of_waitAck (s := { s with buf := buf, txlog := txlog }) hmay hrxq hphase,
      { h with beforeResponse := fun hp => hp.elim nofun nofun, duringResponse := nofun }⟩
  · rw [heq]
    exact ⟨rxTimeout_of_readRsp (s := { s with buf := buf, txlog := txlog }) hmay hrxq hphase,
      { h with beforeResponse := fun hp => hp.elim nofun nofun, duringResponse := nofun }⟩
  · rw [heq]
    exact ⟨rxTimeout_of_not_enabled (s := { s with buf := buf, txlog := txlog }) hnot, h⟩

/-- Each move of an exchange is the same in both, and leaves them alike. -/
theorem Alike.move (h : Alike s buf txlog) {m : Move} (hm : exchangeMove m = true)
    (hmove : moveEffect m s = .next t) :
    ∃ buf' txlog', moveEffect m { s with buf := buf, txlog := txlog } =
      .next { t with buf := buf', txlog := txlog' } ∧ Alike t buf' txlog' := by
  cases m with
  | block =>
    obtain ⟨buf', txlog', hevent, halike⟩ := h.blockEvent (blockStep_eq_next_iff.mp hmove)
    exact ⟨buf', txlog', blockStep_eq_next_iff.mpr hevent, halike⟩
  | devPush | txReady =>
    obtain rfl := Host.Outcome.next.inj hmove
    exact ⟨buf, txlog, rfl, { h with }⟩
  | rxTimeout =>
    obtain rfl := Host.Outcome.next.inj hmove
    obtain ⟨hsame, halike⟩ := h.rxTimeout
    exact ⟨buf, txlog, congrArg _ hsame, halike⟩
  | host | read | release | reset => cases hm

/-- Alike states stay alike along every run of an exchange's moves. -/
theorem Alike.run {ms : List Move} (h : Alike s buf txlog) (hms : ∀ m ∈ ms, exchangeMove m = true)
    (hrun : runMoves ms s = .next t) :
    ∃ buf' txlog', runMoves ms { s with buf := buf, txlog := txlog } =
      .next { t with buf := buf', txlog := txlog' } ∧ Alike t buf' txlog' := by
  induction ms generalizing s buf txlog with
  | nil =>
    obtain rfl := Host.Outcome.next.inj hrun
    exact ⟨buf, txlog, rfl, h⟩
  | cons m ms ih =>
    obtain ⟨hm, hrest⟩ := List.forall_mem_cons.mp hms
    obtain ⟨u, hmove, hrun⟩ := exists_moveEffect_of_runMoves_cons hrun
    obtain ⟨buf₁, txlog₁, hmove', halike⟩ := h.move hm hmove
    obtain ⟨buf₂, txlog₂, hrun', halike'⟩ := ih halike hrest hrun
    exact ⟨buf₂, txlog₂, (runMoves_cons_of_next hmove').trans hrun', halike'⟩

/-- Two accepted commands of the same length differ in what is written to `BUF` alone. -/
theorem accept_eq_with_buf {params params' : List Byte} (hlen : params.length = params'.length) (caller : Caller)
    (code code' : Byte) (explen : Nat) (s : State) :
    accept caller code' params' explen s = { accept caller code params explen s with
      buf := memWrite s.buf 0 (encodeFrame code' params') } := by
  have hframes : (encodeFrame code' params').length = (encodeFrame code params).length := by
    rw [encodeFrame_length, encodeFrame_length, hlen]
  simp only [accept, hframes]
  rfl

end Sys2Proof.Machine

namespace Sys2Proof.Proofs

open Sys2Proof Sys2Proof.Machine

/-- Settles O46: two acceptances of the same length leave alike states, and alike states stay alike. -/
theorem payloadSelectsNoBehaviour : Obligations.PayloadSelectsNoBehaviour := by
  intro s t t' u caller code code' params params' explen ms hidle hlen hexec hexec' hms hrun
  obtain ⟨-, -, rfl⟩ := requestExchange_idle hidle hexec
  obtain ⟨-, -, rfl⟩ := requestExchange_idle hidle hexec'
  have hframes : (encodeFrame code' params').length = (encodeFrame code params).length := by
    rw [encodeFrame_length, encodeFrame_length, hlen]
  have halike : Alike (retire (accept caller code params explen s)) (memWrite s.buf 0 (encodeFrame code' params'))
      s.txlog := {
    sent := rfl
    valued := isSome_memLookup_memWrite hframes
    response := fun a ha => absurd ha (Nat.not_lt_zero a)
    beforeResponse := fun _ => rfl
    duringResponse := nofun }
  obtain ⟨buf', txlog', hrun', hend⟩ := halike.run hms hrun
  have hraw : rspRaw { u with buf := buf', txlog := txlog' } = rspRaw u := rspRaw_congr rfl rfl hend.response
  rw [accept_eq_with_buf hlen caller code code' explen s]
  exact ⟨_, hrun', rfl, rfl, rfl, rfl, hraw, rfl, rfl, hend.sent⟩

end Sys2Proof.Proofs
end
